-- ==== Sys2Proof/Word.lean ====
section
/-!
DEFINITION. The word types of I2CM: every register value is an unsigned number below 2^width
(00_scope.md R10), so each is a bit vector of the width the spec gives it.
-/
namespace Sys2Proof

/-- An 8-bit register, a status code or one byte of host memory (00_scope.md R8 `SLA_W`). -/
abbrev Byte := BitVec 8

/-- A 32-bit register word of the host port (20_memory.md R61; 00_scope.md R8 `LEN_W`, `ADDR_W`, `RESULT_W`). -/
abbrev Word := BitVec 32

/-- A 7-bit target address (00_scope.md R8 `ADDR7_W`). -/
abbrev Addr7 := BitVec 7

/-- A clock divider register (00_scope.md R8 `SCL_W`). -/
abbrev Divider := BitVec 16

/-- The index of one 32-bit word of the register map: the byte offset divided by 4 (20_memory.md R61). -/
abbrev RegIndex := BitVec 5

end Sys2Proof
end

