-- ==== Sys2Proof/Config.lean ====
section
/-!
DEFINITION. What an implementation of I2CM fixes (00_scope.md R8): the parameters the spec leaves OPEN
as opaque constants, the constants it gives, the status-code alphabet (30_encoding.md R88), and the
free values of the model.
-/
namespace Sys2Proof

/-- `PCLK` in Hz (00_scope.md R8, OPEN; 92_eei_decisions.md D34). No proof sees its value. -/
opaque Config.pclk : Nat

/-- `IGNORE_DATA_NACK` (00_scope.md R8 and R9, OPEN; 92_eei_decisions.md D28). No proof sees its value. -/
opaque Config.ignoreDataNack : Bool

/-- `BASE`, the host address of the register block (00_scope.md R8, OPEN; 20_memory.md R71). -/
opaque Config.base : Nat

/-- FREE VALUE (DESIGN CHOICE, notes/assumptions/10.md): what CURSOR + 1 is when CURSOR is already
0xFFFF_FFFF, as a function of LENGTH. 41_event_fsm.md R145 gives no result there, since R150 (c) rules
the case out in every reachable state. -/
opaque Config.cursorPastTop : Word → Word

/-- FREE VALUE (DESIGN CHOICE, notes/assumptions/7.md and 12.md): what a byte holds after a host write whose
effect on memory the spec leaves open, by the number of the byte among all such bytes: `some b` is the byte b,
and none leaves that byte as it was. 20_memory.md R68 gives a write into the buffer in flight only the fault
(91_not_in_source.md N12: assume neither the old nor the new byte). -/
opaque Config.openByte : Nat → Option Byte

/-- The build parameters of one instance of the block (00_scope.md R8). They are chosen when the block is
built and no step writes them (R9); a model takes them as arguments, so they stand in the state. -/
structure Build where
  /-- `PCLK`, the peripheral clock in Hz. -/
  pclk : Nat
  /-- `IGNORE_DATA_NACK`, readable as CFG[0] (10_state.md R44). -/
  ignoreDataNack : Bool
  /-- `BASE`, the host address of the register block. The spec gives it no alignment; what a `BASE` that is
  no multiple of 4 means for the accesses is the model's choice (DESIGN CHOICE, notes/assumptions/22.md). -/
  base : Nat
  /-- `ARB_ENV`: the environment may report arbitration loss (default true). -/
  arbEnv : Bool
  /-- `OTHER_ENV`: the environment may deliver an unrecognised status code (default true). -/
  otherEnv : Bool
  /-- `ENGINE_PROGRESS`: every continuously enabled engine step is eventually taken (default not assumed).
  It is an assumption about executions (`Execution.Fair`), and no step reads it. -/
  engineProgress : Bool
  deriving DecidableEq, Repr

/-- The build `State.reset` stands for: the OPEN parameters are the opaque constants, the two
environment parameters and `ENGINE_PROGRESS` have the default R8 gives (notes/assumptions/5.md). -/
def Config.build : Build :=
  { pclk := Config.pclk, ignoreDataNack := Config.ignoreDataNack, base := Config.base,
    arbEnv := true, otherEnv := true, engineProgress := false }

/-- `SENTINEL`, all bits of RESULT set (00_scope.md R8). -/
def Config.sentinel : Word := 0xFFFFFFFF

/-- START_SENT (30_encoding.md R88). -/
def Config.startSent : Byte := 0x08
/-- RSTART_SENT: a repeated start, not in the alphabet (30_encoding.md R88). -/
def Config.rstartSent : Byte := 0x10
/-- ADDR_ACK (30_encoding.md R88). -/
def Config.addrAck : Byte := 0x18
/-- ADDR_NACK (30_encoding.md R88). -/
def Config.addrNack : Byte := 0x20
/-- DATA_ACK (30_encoding.md R88). -/
def Config.dataAck : Byte := 0x28
/-- DATA_NACK (30_encoding.md R88). -/
def Config.dataNack : Byte := 0x30
/-- ARB_LOST (30_encoding.md R88). -/
def Config.arbLost : Byte := 0x38
/-- NO_EVENT: reset value of STAT and its value after a stop (30_encoding.md R88). -/
def Config.noEvent : Byte := 0xF8

/-- The six recognised status codes (30_encoding.md R89, R90). -/
def Config.recognisedCodes : List Byte :=
  [Config.startSent, Config.addrAck, Config.addrNack, Config.dataAck, Config.dataNack, Config.arbLost]

/-- The code is one of the six recognised ones: an exact match of all 8 bits (30_encoding.md R90). -/
def Config.recognised (c : Byte) : Bool := Config.recognisedCodes.contains c

end Sys2Proof
end

