-- ==== Sys2Proof/Syntax.lean ====
section
/-!
DEFINITION. The atomic steps of I2CM, one constructor for each row of spec/opcode_table.json, and the
words they are decoded from: a status code, a command word, a host access, or the engine's flags
(30_encoding.md R85).
-/
namespace Sys2Proof

/-- The environment's answer to one engine turn (42_bus_engine.md R178): the response to a byte, or an
unrecognised code in place of the event (R180; trace form `E.other c` of 30_encoding.md R99). -/
inductive Draw where
  | ack
  | nack
  | arb
  | other (code : Byte)
  deriving DecidableEq, Repr

/-- The last bus phase the engine completed while it owns the bus: register LAST (10_state.md R46). -/
inductive Phase where
  | noPhase
  | start
  | addr
  | data
  deriving DecidableEq, Repr

/-- The six inputs of the engine's guards (42_bus_engine.md R170, R172). -/
structure EngineFlags where
  en : Bool
  si : Bool
  sto : Bool
  sta : Bool
  owned : Bool
  last : Phase
  deriving DecidableEq, Repr

/-- One host access to the register block: direction, width in bytes, byte offset from BASE, and the
value of a write (30_encoding.md R85, R98). -/
structure Access where
  write : Bool
  size : Nat
  offset : BitVec 7
  value : Word
  deriving DecidableEq, Repr

/-- What the block decodes (30_encoding.md R85): a status code with CFG[0], a command word, a host
access, or, for the engine, its flags with the environment's answer. -/
inductive Code where
  | status (ignoreDataNack : Bool) (code : Byte)
  | command (word : Word)
  | access (a : Access)
  | engine (flags : EngineFlags) (draw : Draw)
  deriving DecidableEq, Repr

/-- The atomic steps, one constructor per row of spec/opcode_table.json, in the table's order. The two
engine steps the environment answers carry that answer as their operand. -/
inductive Instr where
  /-- 41_event_fsm.md R142. -/
  | svcStartSent
  /-- 41_event_fsm.md R143. -/
  | svcAddrAck
  /-- 41_event_fsm.md R144. -/
  | svcAddrNack
  /-- 41_event_fsm.md R145. -/
  | svcDataAck
  /-- 41_event_fsm.md R146. -/
  | svcDataNackStrict
  /-- 41_event_fsm.md R147. -/
  | svcDataNackIgnore
  /-- 41_event_fsm.md R148. -/
  | svcArbLost
  /-- 41_event_fsm.md R149; `code` is the unrecognised code in STAT. -/
  | svcOther (code : Byte)
  /-- 40_host_interface.md R115. -/
  | init
  /-- 40_host_interface.md R117 to R120. -/
  | xfer
  /-- 40_host_interface.md R121, OP = 0x0. -/
  | cmdRsvd0
  /-- 40_host_interface.md R121, OP = 0x3. -/
  | cmdRsvd3
  /-- 40_host_interface.md R121, OP = 0x4 to 0x7; `low` is OP[1:0]. -/
  | cmdRsvd4to7 (low : BitVec 2)
  /-- 40_host_interface.md R121, OP = 0x8 to 0xF; `low` is OP[2:0]. -/
  | cmdRsvd8toF (low : BitVec 3)
  /-- 40_host_interface.md R111; `reg` is offset[6:2]. -/
  | hostRd (reg : RegIndex)
  /-- 40_host_interface.md R114. -/
  | hostWrCmd (word : Word)
  /-- 40_host_interface.md R112, offset 0x40. -/
  | hostWrArgFreq (value : Word)
  /-- 40_host_interface.md R112, offset 0x44. -/
  | hostWrArgPrio (value : Word)
  /-- 40_host_interface.md R112, offset 0x48. -/
  | hostWrArgAddr (value : Word)
  /-- 40_host_interface.md R112, offset 0x4C. -/
  | hostWrArgBuf (value : Word)
  /-- 40_host_interface.md R112, offset 0x50. -/
  | hostWrArgLen (value : Word)
  /-- 40_host_interface.md R113; `reg` is offset[6:2] of a read-only or reserved word. -/
  | hostWrIgn (reg : RegIndex) (value : Word)
  /-- 42_bus_engine.md R173. -/
  | eStop
  /-- 42_bus_engine.md R174. -/
  | eStoidle
  /-- 42_bus_engine.md R175; `other` is the code that replaces the event (R180), if any. -/
  | eStart (other : Option Byte)
  /-- 42_bus_engine.md R176; `draw` is the environment's answer (R178, R180). -/
  | eByte (draw : Draw)
  /-- 42_bus_engine.md R177. -/
  | eRstart
  deriving DecidableEq, Repr

end Sys2Proof
end

