-- ==== Sys2Proof/WellFormed.lean ====
section
/-!
DEFINITION. Which terms of `Instr`, `Draw` and `Access` stand for something the block can meet: an
"other" code is unrecognised (30_encoding.md R89, 42_bus_engine.md R180), and an ignored write goes to a
word that is neither CMD nor a staging register (40_host_interface.md R113).
-/
namespace Sys2Proof

/-- A draw of R178 or R180: a replacing code is never one of the six recognised codes. -/
def Draw.wf : Draw → Bool
  | .other c => !Config.recognised c
  | _ => true

/-- The word is read-only or reserved: offsets 0x04 to 0x3C and 0x54 to 0x7C (40_host_interface.md R113). -/
def regIgnored (reg : RegIndex) : Bool :=
  (1 ≤ reg.toNat && reg.toNat ≤ 15) || 21 ≤ reg.toNat

/-- The operands are ones the row of spec/opcode_table.json admits. -/
def Instr.wf : Instr → Bool
  | .svcOther c => !Config.recognised c
  | .hostWrIgn reg _ => regIgnored reg
  | .eStart (some c) => !Config.recognised c
  | .eByte d => d.wf
  | _ => true

/-- A host access the register block admits: a 32-bit access at a multiple of 4 (20_memory.md R62). -/
def Access.wf (a : Access) : Bool := a.size == 4 && a.offset.extractLsb' 0 2 == 0

end Sys2Proof
end

