-- ==== Sys2Proof/Decode.lean ====
section
/-!
DEFINITION. The decoder, total on every code and rejecting by name, and the encoder (30_encoding.md R85 to
R97). A status code is decoded by an exact match (R90), a command by CMD[3:0] (R91 to R94), a host access
by direction and offset (20_memory.md R61), and an engine step by its guard (42_bus_engine.md R172).
-/
namespace Sys2Proof

/-- Why a code names no step. -/
inductive Reject where
  /-- The access is not 32 bits wide: F_MMIO_ACCESS (20_memory.md R62). -/
  | accessNotWord
  /-- The access is not at a multiple of 4: F_MMIO_ACCESS (20_memory.md R62). -/
  | accessMisaligned
  /-- No engine guard holds: the engine is idle (42_bus_engine.md R172). -/
  | noEngineStep
  deriving DecidableEq, Repr

/-- The service handler a status code selects; for 0x30 CFG[0] chooses (41_event_fsm.md R140). -/
def decodeStatus (ignoreDataNack : Bool) (c : Byte) : Instr :=
  if c = Config.startSent then .svcStartSent
  else if c = Config.addrAck then .svcAddrAck
  else if c = Config.addrNack then .svcAddrNack
  else if c = Config.dataAck then .svcDataAck
  else if c = Config.dataNack then
    (if ignoreDataNack then .svcDataNackIgnore else .svcDataNackStrict)
  else if c = Config.arbLost then .svcArbLost
  else .svcOther c

/-- OP, bits [3:0] of a command word (30_encoding.md R91). -/
def commandOp (w : Word) : BitVec 4 := w.extractLsb' 0 4

/-- The command OP selects; CMD[31:4] is not decoded (30_encoding.md R92 to R94). -/
def decodeCommand (w : Word) : Instr :=
  if commandOp w = 0x1 then .init
  else if commandOp w = 0x2 then .xfer
  else if commandOp w = 0x0 then .cmdRsvd0
  else if commandOp w = 0x3 then .cmdRsvd3
  else if (commandOp w).getLsbD 3 then .cmdRsvd8toF (w.extractLsb' 0 3)
  else .cmdRsvd4to7 (w.extractLsb' 0 2)

/-- The write row an offset selects (20_memory.md R61, 40_host_interface.md R112 to R114). -/
def decodeWrite (reg : RegIndex) (v : Word) : Instr :=
  if reg = 0x00 then .hostWrCmd v
  else if reg = 0x10 then .hostWrArgFreq v
  else if reg = 0x11 then .hostWrArgPrio v
  else if reg = 0x12 then .hostWrArgAddr v
  else if reg = 0x13 then .hostWrArgBuf v
  else if reg = 0x14 then .hostWrArgLen v
  else .hostWrIgn reg v

/-- The word index offset[6:2] of an access (20_memory.md R61). -/
def Access.reg (a : Access) : RegIndex := a.offset.extractLsb' 2 5

/-- A host access: 32-bit and aligned, else rejected before anything else (20_memory.md R62). The access is
given by its offset, and the test of alignment is on the offset: this takes `BASE` to be a multiple of 4
(DESIGN CHOICE, notes/assumptions/22.md). -/
def decodeAccess (a : Access) : Except Reject Instr :=
  if a.size ≠ 4 then .error .accessNotWord
  else if a.offset.extractLsb' 0 2 ≠ 0 then .error .accessMisaligned
  else if a.write then .ok (decodeWrite a.reg a.value)
  else .ok (.hostRd a.reg)

/-- Guard of E.stop (42_bus_engine.md R172). -/
def EngineFlags.stop (f : EngineFlags) : Bool := f.en && !f.si && f.sto && f.owned
/-- Guard of E.stoidle (42_bus_engine.md R172). -/
def EngineFlags.stoidle (f : EngineFlags) : Bool := f.en && !f.si && f.sto && !f.owned
/-- Guard of E.start (42_bus_engine.md R172). -/
def EngineFlags.startOk (f : EngineFlags) : Bool := f.en && !f.si && !f.sto && f.sta && !f.owned
/-- Guard of E.rstart (42_bus_engine.md R172). -/
def EngineFlags.rstart (f : EngineFlags) : Bool := f.en && !f.si && !f.sto && f.sta && f.owned
/-- Guard of E.byte (42_bus_engine.md R172). -/
def EngineFlags.byteOk (f : EngineFlags) : Bool :=
  f.en && !f.si && !f.sto && !f.sta && f.owned && f.last != .noPhase

/-- The code that replaces an event, if the environment's answer is one (42_bus_engine.md R180). -/
def Draw.replacing : Draw → Option Byte
  | .other c => some c
  | _ => none

/-- The engine step whose guard holds, if any (42_bus_engine.md R172); a start takes from the draw only
the question whether its event is replaced (R175, R180). -/
def engineSelect (f : EngineFlags) (d : Draw) : Option Instr :=
  if f.stop then some .eStop
  else if f.stoidle then some .eStoidle
  else if f.startOk then some (.eStart d.replacing)
  else if f.rstart then some .eRstart
  else if f.byteOk then some (.eByte d)
  else none

/-- The decoder of every form. -/
def decode : Code → Except Reject Instr
  | .status ignoreDataNack c => .ok (decodeStatus ignoreDataNack c)
  | .command w => .ok (decodeCommand w)
  | .access a => decodeAccess a
  | .engine f d =>
    match engineSelect f d with
    | some i => .ok i
    | none => .error .noEngineStep

/-- A 32-bit aligned write of `v` to word `reg` (30_encoding.md R98 `wr`). -/
def Access.wr (reg : RegIndex) (v : Word) : Access :=
  { write := true, size := 4, offset := reg ++ (0 : BitVec 2), value := v }

/-- A 32-bit aligned read of word `reg` (30_encoding.md R98 `rd`). -/
def Access.rd (reg : RegIndex) : Access :=
  { write := false, size := 4, offset := reg ++ (0 : BitVec 2), value := 0 }

/-- Engine flags with EN = 1 and SI = 0. -/
def EngineFlags.live (sto sta owned : Bool) (last : Phase) : EngineFlags :=
  { en := true, si := false, sto := sto, sta := sta, owned := owned, last := last }

/-- The encoder: a code of each step, from the tables of 30_encoding.md R88, R91, R92 and 20_memory.md
R61. An engine step has no encoding (30_encoding.md R85); it is given as flags that meet its guard. -/
def encode : Instr → Code
  | .svcStartSent => .status false 0x08
  | .svcAddrAck => .status false 0x18
  | .svcAddrNack => .status false 0x20
  | .svcDataAck => .status false 0x28
  | .svcDataNackStrict => .status false 0x30
  | .svcDataNackIgnore => .status true 0x30
  | .svcArbLost => .status false 0x38
  | .svcOther c => .status false c
  | .init => .command 0x00000001
  | .xfer => .command 0x00000002
  | .cmdRsvd0 => .command 0x00000000
  | .cmdRsvd3 => .command 0x00000003
  | .cmdRsvd4to7 low => .command ((0 : BitVec 28) ++ (0b01 : BitVec 2) ++ low)
  | .cmdRsvd8toF low => .command ((0 : BitVec 28) ++ (0b1 : BitVec 1) ++ low)
  | .hostRd reg => .access (Access.rd reg)
  | .hostWrCmd w => .access (Access.wr 0x00 w)
  | .hostWrArgFreq v => .access (Access.wr 0x10 v)
  | .hostWrArgPrio v => .access (Access.wr 0x11 v)
  | .hostWrArgAddr v => .access (Access.wr 0x12 v)
  | .hostWrArgBuf v => .access (Access.wr 0x13 v)
  | .hostWrArgLen v => .access (Access.wr 0x14 v)
  | .hostWrIgn reg v => .access (Access.wr reg v)
  | .eStop => .engine (EngineFlags.live true false true .data) .ack
  | .eStoidle => .engine (EngineFlags.live true false false .noPhase) .ack
  | .eStart none => .engine (EngineFlags.live false true false .noPhase) .ack
  | .eStart (some c) => .engine (EngineFlags.live false true false .noPhase) (.other c)
  | .eByte d => .engine (EngineFlags.live false false true .data) d
  | .eRstart => .engine (EngineFlags.live false true true .data) .ack

/-- The code a word of spec/opcode_table.json stands for. The table numbers status codes, command words
and write offsets each from bit 0 and all in one byte, so one number can name rows of several spaces:
this takes the first of a recognised status code, a command (below 0x10), a staging offset, any other
status code (DESIGN CHOICE, notes/assumptions/13.md). A 32-bit word is a command word. For 0x30 the
row with CFG[0] = 0 is given. -/
def tableCode (nbits w : Nat) : Option Code :=
  if nbits = 8 ∧ w < 256 then
    if Config.recognised (BitVec.ofNat 8 w) then some (.status false (BitVec.ofNat 8 w))
    else if w < 16 then some (.command (BitVec.ofNat 32 w))
    else if w = 0x40 ∨ w = 0x44 ∨ w = 0x48 ∨ w = 0x4C ∨ w = 0x50 then
      some (.access { write := true, size := 4, offset := BitVec.ofNat 7 w, value := 0 })
    else some (.status false (BitVec.ofNat 8 w))
  else if nbits = 32 ∧ w < 4294967296 then some (.command (BitVec.ofNat 32 w))
  else none

/-- The instruction the decoder reads from a word numbered as spec/opcode_table.json numbers it. -/
def decodeTableWord (nbits w : Nat) : Option Instr :=
  match tableCode nbits w with
  | none => none
  | some c =>
    match decode c with
    | .ok i => some i
    | .error _ => none

/-- The format column of spec/opcode_table.json. -/
inductive Format where
  | status8
  | cmd32
  | mmioRead
  | mmioWrite
  | engine
  deriving DecidableEq, Repr

/-- One row of spec/opcode_table.json: format, match and mask. -/
structure TableRow where
  format : Format
  pattern : Nat
  mask : Nat
  deriving DecidableEq, Repr

/-- The row of spec/opcode_table.json an instruction stands for (engine rows have no pattern there). -/
def Instr.tableRow : Instr → TableRow
  | .svcStartSent => ⟨.status8, 0x08, 0xFF⟩
  | .svcAddrAck => ⟨.status8, 0x18, 0xFF⟩
  | .svcAddrNack => ⟨.status8, 0x20, 0xFF⟩
  | .svcDataAck => ⟨.status8, 0x28, 0xFF⟩
  | .svcDataNackStrict => ⟨.status8, 0x30, 0xFF⟩
  | .svcDataNackIgnore => ⟨.status8, 0x30, 0xFF⟩
  | .svcArbLost => ⟨.status8, 0x38, 0xFF⟩
  | .svcOther _ => ⟨.status8, 0x00, 0x00⟩
  | .init => ⟨.cmd32, 0x1, 0xF⟩
  | .xfer => ⟨.cmd32, 0x2, 0xF⟩
  | .cmdRsvd0 => ⟨.cmd32, 0x0, 0xF⟩
  | .cmdRsvd3 => ⟨.cmd32, 0x3, 0xF⟩
  | .cmdRsvd4to7 _ => ⟨.cmd32, 0x4, 0xC⟩
  | .cmdRsvd8toF _ => ⟨.cmd32, 0x8, 0x8⟩
  | .hostRd _ => ⟨.mmioRead, 0x00, 0x00⟩
  | .hostWrCmd _ => ⟨.mmioWrite, 0x00, 0x7C⟩
  | .hostWrArgFreq _ => ⟨.mmioWrite, 0x40, 0x7C⟩
  | .hostWrArgPrio _ => ⟨.mmioWrite, 0x44, 0x7C⟩
  | .hostWrArgAddr _ => ⟨.mmioWrite, 0x48, 0x7C⟩
  | .hostWrArgBuf _ => ⟨.mmioWrite, 0x4C, 0x7C⟩
  | .hostWrArgLen _ => ⟨.mmioWrite, 0x50, 0x7C⟩
  | .hostWrIgn _ _ => ⟨.mmioWrite, 0x04, 0x00⟩
  | .eStop => ⟨.engine, 0, 0⟩
  | .eStoidle => ⟨.engine, 0, 0⟩
  | .eStart _ => ⟨.engine, 0, 0⟩
  | .eByte _ => ⟨.engine, 0, 0⟩
  | .eRstart => ⟨.engine, 0, 0⟩

/-- The bits of a code in the table's numbering: the status code, the command word, or the offset. -/
def Code.tableBits : Code → Nat
  | .status _ c => c.toNat
  | .command w => w.toNat
  | .access a => a.offset.toNat
  | .engine _ _ => 0

/-- The format of a code. -/
def Code.format : Code → Format
  | .status _ _ => .status8
  | .command _ => .cmd32
  | .access a => if a.write then .mmioWrite else .mmioRead
  | .engine _ _ => .engine

/-- The code has the row's format and meets its mask and pattern. -/
def TableRow.admits (r : TableRow) (c : Code) : Bool :=
  c.format == r.format && (c.tableBits &&& r.mask) == (r.pattern &&& r.mask)

end Sys2Proof
end

