-- ==== Sys2Proof/Machine/State.lean ====
section
/-!
DEFINITION. The state of I2CM (10_state.md R20 to R52), the parameters of its step relation (host memory,
host contexts, build parameters), the schedule of turns, and the state after reset.
-/
namespace Sys2Proof.Machine

/-- The reasons of a fault mark (60_exceptions.md R205). -/
inductive FaultReason where
  /-- A host access to the register block that is not a 32-bit aligned word (20_memory.md R62). -/
  | mmioAccess
  /-- INIT with ARG_FREQ = 0 (40_host_interface.md R115). -/
  | initFreqZero
  /-- INIT whose divider does not fit (40_host_interface.md R115). -/
  | initDivRange
  /-- XFER with ARG_LEN = 0xFFFF_FFFF (40_host_interface.md R119). -/
  | xferLen
  /-- XFER whose buffer passes the top of the address space (40_host_interface.md R119). -/
  | xferWrap
  /-- A host write into the buffer of the transaction in flight (20_memory.md R68). -/
  | bufHazard
  deriving DecidableEq, Repr

/-- What an engine step put on the bus, in the trace form of 30_encoding.md R99. -/
inductive BusEvent where
  /-- A start condition (42_bus_engine.md R175). -/
  | start
  /-- A repeated start (42_bus_engine.md R177). -/
  | rstart
  /-- A byte shifted out, with the response drawn (42_bus_engine.md R176). -/
  | byte (value : Byte) (response : Draw)
  /-- A stop condition (42_bus_engine.md R173). -/
  | stop
  /-- An unrecognised code in place of a phase's event (42_bus_engine.md R180). -/
  | other (code : Byte)
  deriving DecidableEq, Repr

/-- Host memory: (address, byte) pairs, addresses strictly rising. An unlisted address has no value: host
memory does not admit a read there (20_memory.md R67; DESIGN CHOICE, notes/assumptions/6.md). -/
abbrev Memory := List Host.Cell

/-- One atomic operation of a host program (30_encoding.md R98). -/
inductive HostOp where
  /-- `rd x, REG`: variable number `dst` takes the value read. -/
  | rd (dst : Nat) (reg : RegIndex)
  /-- `wr REG, imm32`. -/
  | wr (reg : RegIndex) (value : Word)
  /-- `spin REG, mask, val`: reads until the masked value matches; each turn is one read into `dst`. -/
  | spin (dst : Nat) (reg : RegIndex) (mask value : Word)
  /-- `rd s, STATUS` with the test `s[1] == 0` after it: on a refusal `result` becomes 0 and the next
  `skip` operations are passed over (30_encoding.md R100). -/
  | rdAccepted (dst result skip : Nat)
  deriving DecidableEq, Repr

/-- A host context (00_scope.md R4): the rest of its program and its variables, by number. -/
structure HostContext where
  prog : List HostOp
  vars : List Word
  deriving DecidableEq, Repr

/-- One turn of one agent (00_scope.md R4, R5). -/
inductive Input where
  /-- A host access at an offset from BASE (95_test_vectors.md `W +off v`, `R +off`). -/
  | reg (a : Access)
  /-- A host load of `size` bytes at an absolute host address. -/
  | load (addr : Word) (size : Nat)
  /-- A host store of bytes at an absolute host address, lowest address first. -/
  | store (addr : Word) (bytes : List Byte)
  /-- Host context number `k` runs its next operation. -/
  | turn (k : Nat)
  /-- The event FSM's turn (41_event_fsm.md R140). -/
  | service
  /-- The bus engine's turn, with the environment's answer (42_bus_engine.md R172, R178). -/
  | engine (draw : Draw)
  deriving DecidableEq, Repr

/-- The machine: the registers of 10_state.md, then the fault mark, the parameters of the step relation,
and the model's own fields. -/
structure State where
  /-- SLA (R23). -/
  sla : Byte
  /-- BUFBASE (R24). -/
  bufbase : Word
  /-- LENGTH (R25). -/
  length : Word
  /-- CURSOR (R26). -/
  cursor : Word
  /-- BUSY (R27). -/
  busy : Bool
  /-- RESULT (R28). -/
  result : Word
  /-- CMDRESP (R29). -/
  cmdresp : Bool
  /-- DAT (R33). -/
  dat : Byte
  /-- STAT (R34). -/
  stat : Byte
  /-- STA (R36). -/
  sta : Bool
  /-- STO (R37). -/
  sto : Bool
  /-- SI (R38). -/
  si : Bool
  /-- AA (R39). -/
  aa : Bool
  /-- EN (R40). -/
  en : Bool
  /-- IRQ_EN (R41). -/
  irqEn : Bool
  /-- SCLL (R42). -/
  scll : Divider
  /-- SCLH (R42). -/
  sclh : Divider
  /-- PRIO (R43). -/
  prio : Byte
  /-- OWNED (R45). -/
  owned : Bool
  /-- LAST (R46). -/
  last : Phase
  /-- ARG_FREQ (R48). -/
  argFreq : Word
  /-- ARG_PRIO (R48). -/
  argPrio : Byte
  /-- ARG_ADDR (R48). -/
  argAddr : Addr7
  /-- ARG_BUF (R48). -/
  argBuf : Word
  /-- ARG_LEN (R48). -/
  argLen : Word
  /-- The fault mark: the first fault raised, or none (R49). -/
  faultMark : Option FaultReason
  /-- The build parameters, CFG among them (00_scope.md R8, 10_state.md R44); no step writes them. -/
  build : Build
  /-- Host memory (20_memory.md R60). -/
  mem : Memory
  /-- The host contexts (00_scope.md R4). -/
  contexts : List HostContext
  /-- MODEL'S OWN: the turns still to be taken, the next one first (notes/assumptions/3.md). -/
  inputs : List Input
  /-- MODEL'S OWN: how many of the free values `Config.openByte` host writes have used
  (notes/assumptions/7.md, 12.md). -/
  openDraws : Nat
  /-- MODEL'S OWN: the value the host port returned last (40_host_interface.md R111). -/
  rdData : Word
  /-- MODEL'S OWN: what the engine did on the bus, newest first (30_encoding.md R99). -/
  wire : List BusEvent
  deriving DecidableEq, Repr

/-- Why a run ends with a fault: nothing does. The faults of 60_exceptions.md R205 mark the state and the step
is a next state (notes/assumptions/1.md), and R200 has no class of event that stops the block. Without a
constructor, no outcome of a step can be a fault. -/
inductive Fault
  deriving DecidableEq, Repr

/-- Why an instruction has no meaning. -/
inductive Refusal where
  /-- Raised by exec for an instruction without a meaning in this model; no arm of exec raises it now.
  Safe: the model stops. -/
  | notModelled (mnemonic : String)
  deriving DecidableEq, Repr

/-- The state at launch of a build (10_state.md R52, 70_reset_and_hazards.md R230): the reset values, with
the parameters of the step relation as given. -/
def State.launch (build : Build) (mem : Memory) (contexts : List HostContext) (inputs : List Input) :
    State :=
  { sla := 0x00, bufbase := 0x00000000, length := 0x00000000, cursor := 0x00000000, busy := false,
    result := 0x00000000, cmdresp := false, dat := 0x00, stat := Config.noEvent, sta := false,
    sto := false, si := false, aa := false, en := false, irqEn := false, scll := 0x0000,
    sclh := 0x0000, prio := 0x00, owned := false, last := .noPhase, argFreq := 0, argPrio := 0,
    argAddr := 0, argBuf := 0, argLen := 0, faultMark := none, build := build, mem := mem,
    contexts := contexts, inputs := inputs, openDraws := 0, rdData := 0, wire := [] }

/-- The machine right after reset: the registers of 10_state.md R52, no memory listed, no host context,
no turn scheduled. -/
def State.reset : State := State.launch Config.build [] [] []

end Sys2Proof.Machine
end

