-- ==== Sys2Proof/Machine/Ops.lean ====
section
/-!
DEFINITION. The named operations the meanings are written over: taking a step when its guard holds
(00_scope.md R12), host memory (20_memory.md R60 to R68), raising a fault (60_exceptions.md R205), raising,
entering and leaving an event (60_exceptions.md R209, R214, R215), and ending a transaction
(41_event_fsm.md R141).
-/
namespace Sys2Proof.Machine

/-- A step of guard `g` whose effect is `t`: "A step whose guard fails does nothing and is not taken"
(00_scope.md R12). -/
def State.takeWhen (s : State) (g : Bool) (t : State) : Host.Outcome State Fault Refusal :=
  .next (if g then t else s)

/-! ### Host memory -/

/-- One byte of host memory, or nothing where no byte is listed. -/
def Memory.read : Memory → Nat → Option Byte
  | [], _ => none
  | (k, v) :: rest, a => if k = a then some v else Memory.read rest a

/-- Write one byte, keeping the addresses strictly rising. -/
def Memory.write : Memory → Nat → Byte → Memory
  | [], a, b => [(a, b)]
  | (k, v) :: rest, a, b =>
    if a < k then (a, b) :: (k, v) :: rest
    else if a = k then (a, b) :: rest
    else (k, v) :: Memory.write rest a b

/-- Write bytes at rising addresses (00_scope.md R11 `MemWrite`). -/
def Memory.writeBytes : Memory → Nat → List Byte → Memory
  | m, _, [] => m
  | m, a, b :: bs => Memory.writeBytes (Memory.write m a b) (a + 1) bs

/-- `size` bytes at rising addresses become free values, the first of them numbered `n`: each holds a byte
no proof knows, or keeps what it held (notes/assumptions/7.md, 12.md). -/
def Memory.disturb : Memory → Nat → Nat → Nat → Memory
  | m, _, _, 0 => m
  | m, a, n, size + 1 =>
    Memory.disturb (match Config.openByte n with | some b => Memory.write m a b | none => m)
      (a + 1) (n + 1) size

/-- The canonical form: addresses strictly rising, each below 2^32 (20_memory.md R60). An unlisted address
has no value, so no entry can equal what one reads as. -/
def Memory.wf : Memory → Bool
  | [] => true
  | [(k, _)] => k < 4294967296
  | (k, _) :: (k', v') :: rest => k < k' && Memory.wf ((k', v') :: rest)

/-- `MemRead(a, 1)` through the buffer read port: nothing where host memory does not admit the read
(20_memory.md R66, R67). The address is not wrapped. -/
def State.portRead (s : State) (a : Nat) : Option Byte :=
  if a < 4294967296 then s.mem.read a else none

/-- A 32-bit register word from its four bytes, lowest address first (20_memory.md R63). -/
def wordOfBytes : List Byte → Word
  | [b0, b1, b2, b3] => (b3 ++ b2 ++ b1 ++ b0 : BitVec 32)
  | _ => 0

/-! ### Faults -/

/-- Raise a fault: the state is marked with the reason, a mark already there stays, and no register
changes (10_state.md R49, 60_exceptions.md R205). -/
def State.raiseFault (s : State) (r : FaultReason) : State :=
  { s with faultMark := s.faultMark.or (some r) }

/-! ### Host writes whose effect on memory the spec leaves open -/

/-- How many of `size` bytes at `addr` exist: host memory addresses are 32 bits wide (20_memory.md R60). -/
def bytesInSpace (addr size : Nat) : Nat := min size (4294967296 - addr)

/-- The bytes a host write touches become free values, and no register changes. -/
def State.disturb (s : State) (addr size : Nat) : State :=
  { s with
    mem := s.mem.disturb addr s.openDraws (bytesInSpace addr size)
    openDraws := s.openDraws + bytesInSpace addr size }

/-- The faulting host write of 20_memory.md R68: no register changes, and what the written bytes hold after
it is free (91_not_in_source.md N12). -/
def State.hazardWrite (s : State) (addr size : Nat) : State := (s.raiseFault .bufHazard).disturb addr size

/-! ### Events and transactions -/

/-- The flags the engine's guards read (42_bus_engine.md R170). -/
def State.engineFlags (s : State) : EngineFlags :=
  { en := s.en, si := s.si, sto := s.sto, sta := s.sta, owned := s.owned, last := s.last }

/-- The engine raises an event: STAT takes the code and SI is set (60_exceptions.md R209). -/
def State.raiseEvent (s : State) (c : Byte) : State := { s with stat := c, si := true }

/-- An event of code `c` is pending and enabled: the guard of the service step and its case on STAT
(41_event_fsm.md R140, 60_exceptions.md R214). -/
def State.servicing (s : State) (c : Byte) : Bool := s.si && s.irqEn && s.stat == c

/-- The common exit of every recognised handler, which is the return from the event (41_event_fsm.md R141
(a), 60_exceptions.md R215). -/
def State.clearEvent (s : State) : State := { s with si := false }

/-- A terminal step: RESULT is written and BUSY is cleared together (41_event_fsm.md R141 (b)). -/
def State.endTransaction (s : State) (r : Word) : State := { s with result := r, busy := false }

/-- "Raise stop" (00_scope.md R13). -/
def State.raiseStop (s : State) : State := { s with sto := true }

/-- "Emit": the next byte goes to DAT (00_scope.md R13). -/
def State.emit (s : State) (b : Byte) : State := { s with dat := b }

/-- The verdict of a CMD write (10_state.md R29). -/
def State.respond (s : State) (accepted : Bool) : State := { s with cmdresp := accepted }

/-- The trace of the engine gains one entry (30_encoding.md R99). -/
def State.logBus (s : State) (e : BusEvent) : State := { s with wire := e :: s.wire }

/-- The environment may give this answer in this build (42_bus_engine.md R178 to R180): arbitration loss
only with `ARB_ENV`, a replacing code only with `OTHER_ENV` and only an unrecognised one. -/
def State.admitsDraw (s : State) : Draw → Bool
  | .ack => true
  | .nack => true
  | .arb => s.build.arbEnv
  | .other c => s.build.otherEnv && !Config.recognised c

end Sys2Proof.Machine
end

