-- ==== Sys2Proof/Machine/Flags.lean ====
section
/-!
DEFINITION. The 32-bit host views of the flags: STATUS, CONFLAGS, CFG and ENGSTATE (20_memory.md R61). Every
bit not listed reads 0.
-/
namespace Sys2Proof.Machine

/-- The code of LAST in ENGSTATE (10_state.md R46). -/
def phaseCode : Phase → BitVec 2
  | .noPhase => 0
  | .start => 1
  | .addr => 2
  | .data => 3

/-- STATUS: [0] BUSY, [1] CMDRESP (40_host_interface.md R111). -/
def State.statusWord (s : State) : Word :=
  (BitVec.ofBool s.cmdresp ++ BitVec.ofBool s.busy).setWidth 32

/-- CONFLAGS: [2] AA, [3] SI, [4] STO, [5] STA, [6] EN, [7] IRQ_EN (10_state.md R35). -/
def State.conflagsWord (s : State) : Word :=
  (BitVec.ofBool s.irqEn ++ BitVec.ofBool s.en ++ BitVec.ofBool s.sta ++ BitVec.ofBool s.sto ++
    BitVec.ofBool s.si ++ BitVec.ofBool s.aa ++ (0 : BitVec 2)).setWidth 32

/-- CFG: [0] IGNORE_DATA_NACK (10_state.md R44). -/
def State.cfgWord (s : State) : Word := (BitVec.ofBool s.build.ignoreDataNack).setWidth 32

/-- ENGSTATE: [0] OWNED, [2:1] LAST (10_state.md R47). -/
def State.engstateWord (s : State) : Word :=
  (phaseCode s.last ++ BitVec.ofBool s.owned).setWidth 32

end Sys2Proof.Machine
end

