-- ==== Sys2Proof/Machine/Operands.lean ====
section
/-!
DEFINITION. The operands of the steps: the SLA byte (30_encoding.md R86), the staging registers (R95), the
clock divider (40_host_interface.md R116), the buffer byte (20_memory.md R66), and the value a register read
returns (40_host_interface.md R111).
-/
namespace Sys2Proof.Machine

/-- SLA = ADDR7 ++ 0: direction bit 0, write only (30_encoding.md R86). -/
def slaByte (addr7 : Addr7) : Byte := addr7 ++ (0 : BitVec 1)

/-- SCLL = floor(PCLK / freq / 2) (40_host_interface.md R116). -/
def divLow (pclk freq : Nat) : Nat := pclk / (2 * freq)

/-- ceil(PCLK / freq) for freq > 0 (40_host_interface.md R116). -/
def divPeriod (pclk freq : Nat) : Nat := (pclk + freq - 1) / freq

/-- SCLH = ceil(PCLK / freq) - SCLL (40_host_interface.md R116; 90_conflicts.md C1). -/
def divHigh (pclk freq : Nat) : Nat := divPeriod pclk freq - divLow pclk freq

/-- The divider cannot be stored: the low period is 0 or the high period passes 16 bits
(40_host_interface.md R115). -/
def divOutOfRange (pclk freq : Nat) : Bool := divLow pclk freq == 0 || 65535 < divHigh pclk freq

/-- CURSOR + 1 (41_event_fsm.md R145). Past 2^32 - 1, where the spec gives no value, it is the free value
`Config.cursorPastTop` (notes/assumptions/10.md). -/
def State.nextCursor (s : State) : Word :=
  if s.cursor = 0xFFFFFFFF then Config.cursorPastTop s.length else s.cursor + 1

/-- The buffer byte of index `i`, at BUFBASE + i without wrap (20_memory.md R64, R66). -/
def State.bufferByte (s : State) (i : Nat) : Option Byte := s.portRead (s.bufbase.toNat + i)

/-- The value of a register read, by word index (40_host_interface.md R111). -/
def State.readReg (s : State) (reg : RegIndex) : Word :=
  if reg = 0x01 then s.statusWord
  else if reg = 0x02 then s.result
  else if reg = 0x03 then s.cursor
  else if reg = 0x04 then s.length
  else if reg = 0x05 then s.sla.setWidth 32
  else if reg = 0x06 then s.bufbase
  else if reg = 0x07 then s.stat.setWidth 32
  else if reg = 0x08 then s.conflagsWord
  else if reg = 0x09 then s.dat.setWidth 32
  else if reg = 0x0A then s.scll.setWidth 32
  else if reg = 0x0B then s.sclh.setWidth 32
  else if reg = 0x0C then s.prio.setWidth 32
  else if reg = 0x0D then s.cfgWord
  else if reg = 0x0E then s.engstateWord
  else if reg = 0x10 then s.argFreq
  else if reg = 0x11 then s.argPrio.setWidth 32
  else if reg = 0x12 then s.argAddr.setWidth 32
  else if reg = 0x13 then s.argBuf
  else if reg = 0x14 then s.argLen
  else 0

end Sys2Proof.Machine
end

