-- ==== Sys2Proof/Machine/Engine.lean ====
section
/-!
DEFINITION. The five steps of the bus engine (42_bus_engine.md R173 to R177) with the environment's draws
(R178 to R180). Each is taken when its guard of R172 holds, and does nothing otherwise (00_scope.md R12).
-/
namespace Sys2Proof.Machine

/-- An unrecognised code in place of the step's event: OWNED and LAST keep their values
(42_bus_engine.md R180). -/
def State.raiseOther (s : State) (code : Byte) : State := (s.raiseEvent code).logBus (.other code)

/-- A start condition and its event (42_bus_engine.md R175). -/
def State.makeStart (s : State) : State :=
  ({ s with owned := true, last := .start }.raiseEvent Config.startSent).logBus .start

/-- The code a shifted byte raises: the address byte comes right after a start, every other byte is data
(42_bus_engine.md R176, R182). -/
def byteCode (last : Phase) (acked : Bool) : Byte :=
  if last = .start then (if acked then Config.addrAck else Config.addrNack)
  else (if acked then Config.dataAck else Config.dataNack)

/-- The phase a shifted byte completes (42_bus_engine.md R176, R182). -/
def bytePhase (last : Phase) : Phase := if last = .start then .addr else .data

/-- A byte shifted out and answered with ACK or NACK (42_bus_engine.md R176). -/
def State.shiftByte (s : State) (acked : Bool) : State :=
  { s with last := bytePhase s.last }.raiseEvent (byteCode s.last acked)

/-- Arbitration lost at a byte: ownership is dropped and no stop is made (42_bus_engine.md R179). -/
def State.loseBus (s : State) : State :=
  { s with owned := false, last := .noPhase }.raiseEvent Config.arbLost

/-- E.stop (42_bus_engine.md R173). It raises no event (R185). -/
def execEStop (s : State) : Host.Outcome State Fault Refusal :=
  s.takeWhen s.engineFlags.stop
    ({ s with sto := false, owned := false, last := .noPhase, stat := Config.noEvent }.logBus .stop)

/-- E.stoidle: no bus activity and no event (42_bus_engine.md R174). -/
def execEStoidle (s : State) : Host.Outcome State Fault Refusal :=
  s.takeWhen s.engineFlags.stoidle { s with sto := false }

/-- E.start (42_bus_engine.md R175, R180). -/
def execEStart (other : Option Byte) (s : State) : Host.Outcome State Fault Refusal :=
  match other with
  | none => s.takeWhen s.engineFlags.startOk s.makeStart
  | some c => s.takeWhen (s.engineFlags.startOk && s.admitsDraw (.other c)) (s.raiseOther c)

/-- E.byte: DAT is shifted out and the environment answers (42_bus_engine.md R176, R178 to R180). -/
def execEByte (draw : Draw) (s : State) : Host.Outcome State Fault Refusal :=
  s.takeWhen (s.engineFlags.byteOk && s.admitsDraw draw)
    (match draw with
     | .ack => (s.shiftByte true).logBus (.byte s.dat .ack)
     | .nack => (s.shiftByte false).logBus (.byte s.dat .nack)
     | .arb => s.loseBus.logBus (.byte s.dat .arb)
     | .other c => s.raiseOther c)

/-- E.rstart: a repeated start (42_bus_engine.md R177). -/
def execERstart (s : State) : Host.Outcome State Fault Refusal :=
  s.takeWhen s.engineFlags.rstart
    (({ s with last := .start }.raiseEvent Config.rstartSent).logBus .rstart)

end Sys2Proof.Machine
end

