-- ==== Sys2Proof/Machine/Fsm.lean ====
section
/-!
DEFINITION. The eight handlers of the event FSM (41_event_fsm.md R142 to R149). Each is the service step on
its status code: taken when SI = 1, IRQ_EN = 1 and STAT holds that code (R140), and doing nothing otherwise
(00_scope.md R12). Reads see the state before the step.
-/
namespace Sys2Proof.Machine

/-- Emit buffer byte `i` and leave the event; where host memory does not admit the read the FSM is stuck:
it has no step and nothing changes (20_memory.md R66, R67). `s` is the state before the step, `t` the state
with the handler's other writes. -/
def State.emitBuffer (s t : State) (i : Nat) : State :=
  match s.bufferByte i with
  | some b => (t.emit b).clearEvent
  | none => s

/-- A terminal step that raises stop, with the result written (41_event_fsm.md R141). -/
def State.stopWith (s : State) (r : Word) : State := ((s.raiseStop).endTransaction r).clearEvent

/-- "Advance cursor; if cursor < length emit buffer[cursor], else raise stop and clear busy"
(41_event_fsm.md R145). -/
def State.advance (s : State) : State :=
  if s.nextCursor < s.length then
    s.emitBuffer { s with cursor := s.nextCursor } s.nextCursor.toNat
  else
    { s with cursor := s.nextCursor }.stopWith s.nextCursor

/-- START_SENT (41_event_fsm.md R142). -/
def execSvcStartSent (s : State) : Host.Outcome State Fault Refusal :=
  s.takeWhen (s.servicing Config.startSent) ({ s with sta := false }.emit s.sla).clearEvent

/-- ADDR_ACK (41_event_fsm.md R143; 90_conflicts.md C2). -/
def execSvcAddrAck (s : State) : Host.Outcome State Fault Refusal :=
  s.takeWhen (s.servicing Config.addrAck)
    (if s.cursor < s.length then s.emitBuffer { s with sta := false } 0
     else { s with sta := false }.stopWith s.cursor)

/-- ADDR_NACK (41_event_fsm.md R144). -/
def execSvcAddrNack (s : State) : Host.Outcome State Fault Refusal :=
  s.takeWhen (s.servicing Config.addrNack) (s.stopWith Config.sentinel)

/-- DATA_ACK (41_event_fsm.md R145). -/
def execSvcDataAck (s : State) : Host.Outcome State Fault Refusal :=
  s.takeWhen (s.servicing Config.dataAck) s.advance

/-- DATA_NACK_STRICT, with CFG[0] = 0 (41_event_fsm.md R146). -/
def execSvcDataNackStrict (s : State) : Host.Outcome State Fault Refusal :=
  s.takeWhen (s.servicing Config.dataNack && !s.build.ignoreDataNack) (s.stopWith s.cursor)

/-- DATA_NACK_IGNORE, with CFG[0] = 1: "exactly the pseudocode of rule R145" (41_event_fsm.md R147). -/
def execSvcDataNackIgnore (s : State) : Host.Outcome State Fault Refusal :=
  s.takeWhen (s.servicing Config.dataNack && s.build.ignoreDataNack) s.advance

/-- ARB_LOST: "release all control flags" is STA, STO, AA and SI (41_event_fsm.md R148). -/
def execSvcArbLost (s : State) : Host.Outcome State Fault Refusal :=
  s.takeWhen (s.servicing Config.arbLost)
    ({ s with sta := false, sto := false, aa := false }.endTransaction s.cursor).clearEvent

/-- OTHER: "No action"; SI stays set (41_event_fsm.md R149). -/
def execSvcOther (code : Byte) (s : State) : Host.Outcome State Fault Refusal :=
  s.takeWhen (s.servicing code) s

end Sys2Proof.Machine
end

