-- ==== Sys2Proof/Machine/Command.lean ====
section
/-!
DEFINITION. The commands a CMD write runs (40_host_interface.md R115 to R121). Each is one atomic step
(20_memory.md R76); operands come from the staging registers (30_encoding.md R95).
-/
namespace Sys2Proof.Machine

/-- The registers an accepted INIT writes (40_host_interface.md R115, R116). -/
def State.configure (s : State) : State :=
  { s with
    scll := BitVec.ofNat 16 (divLow s.build.pclk s.argFreq.toNat)
    sclh := BitVec.ofNat 16 (divHigh s.build.pclk s.argFreq.toNat)
    prio := s.argPrio
    en := true
    irqEn := true }

/-- INIT: the busy refusal, then the operand faults in their order, then the effect
(40_host_interface.md R115, 60_exceptions.md R205). -/
def execInit (s : State) : Host.Outcome State Fault Refusal :=
  if s.busy then .next (s.respond false)
  else if s.argFreq = 0 then .next (s.raiseFault .initFreqZero)
  else if divOutOfRange s.build.pclk s.argFreq.toNat then .next (s.raiseFault .initDivRange)
  else .next (s.configure.respond true)

/-- The context and start request of an accepted XFER (40_host_interface.md R118). -/
def State.arm (s : State) : State :=
  { s with
    sla := slaByte s.argAddr
    bufbase := s.argBuf
    length := s.argLen
    cursor := 0
    busy := true
    sta := true }

/-- XFER: BusyRejected (R117), the operand faults (R119), or the transaction is armed (R118). It is not
refused before INIT (R120). -/
def execXfer (s : State) : Host.Outcome State Fault Refusal :=
  if s.busy then .next (s.respond false)
  else if s.argLen = 0xFFFFFFFF then .next (s.raiseFault .xferLen)
  else if 4294967296 < s.argBuf.toNat + s.argLen.toNat then .next (s.raiseFault .xferWrap)
  else .next (s.arm.respond true)

/-- Reserved command OP = 0x0 (40_host_interface.md R121). -/
def execCmdRsvd0 (s : State) : Host.Outcome State Fault Refusal := .next (s.respond false)

/-- Reserved command OP = 0x3 (40_host_interface.md R121). -/
def execCmdRsvd3 (s : State) : Host.Outcome State Fault Refusal := .next (s.respond false)

/-- Reserved commands OP = 0x4 to 0x7 (40_host_interface.md R121). -/
def execCmdRsvd4to7 (_low : BitVec 2) (s : State) : Host.Outcome State Fault Refusal :=
  .next (s.respond false)

/-- Reserved commands OP = 0x8 to 0xF (40_host_interface.md R121). -/
def execCmdRsvd8toF (_low : BitVec 3) (s : State) : Host.Outcome State Fault Refusal :=
  .next (s.respond false)

end Sys2Proof.Machine
end

