-- ==== Sys2Proof/Machine/HostPort.lean ====
section
/-!
DEFINITION. The host's register accesses (40_host_interface.md R111 to R114).
-/
namespace Sys2Proof.Machine

/-- RD: the value goes to the host and no register changes (40_host_interface.md R111). -/
def execHostRd (reg : RegIndex) (s : State) : Host.Outcome State Fault Refusal :=
  .next { s with rdData := s.readReg reg }

/-- WR CMD: run the command OP selects (40_host_interface.md R114; 30_encoding.md R92, R94). -/
def execHostWrCmd (word : Word) (s : State) : Host.Outcome State Fault Refusal :=
  match decodeCommand word with
  | .init => execInit s
  | .xfer => execXfer s
  | .cmdRsvd0 => execCmdRsvd0 s
  | .cmdRsvd3 => execCmdRsvd3 s
  | .cmdRsvd4to7 low => execCmdRsvd4to7 low s
  | .cmdRsvd8toF low => execCmdRsvd8toF low s
  | _ => .next s

/-- WR ARG_FREQ (40_host_interface.md R112). -/
def execHostWrArgFreq (value : Word) (s : State) : Host.Outcome State Fault Refusal :=
  .next { s with argFreq := value }

/-- WR ARG_PRIO: bits [31:8] are dropped (40_host_interface.md R112). -/
def execHostWrArgPrio (value : Word) (s : State) : Host.Outcome State Fault Refusal :=
  .next { s with argPrio := value.extractLsb' 0 8 }

/-- WR ARG_ADDR: bits [31:7] are dropped (40_host_interface.md R112). -/
def execHostWrArgAddr (value : Word) (s : State) : Host.Outcome State Fault Refusal :=
  .next { s with argAddr := value.extractLsb' 0 7 }

/-- WR ARG_BUF (40_host_interface.md R112). -/
def execHostWrArgBuf (value : Word) (s : State) : Host.Outcome State Fault Refusal :=
  .next { s with argBuf := value }

/-- WR ARG_LEN (40_host_interface.md R112). -/
def execHostWrArgLen (value : Word) (s : State) : Host.Outcome State Fault Refusal :=
  .next { s with argLen := value }

/-- WR to a read-only or reserved offset: ignored (40_host_interface.md R113). -/
def execHostWrIgn (_reg : RegIndex) (_value : Word) (s : State) : Host.Outcome State Fault Refusal :=
  .next s

end Sys2Proof.Machine
end

