-- ==== Sys2Proof/Machine/Dispatch.lean ====
section
/-! DEFINITION. exec: one arm per constructor of Instr, each one call of that step's meaning. -/
namespace Sys2Proof.Machine
open Sys2Proof

def exec (i : Instr) (s : State) : Host.Outcome State Fault Refusal :=
  match i with
  | .svcStartSent => Sys2Proof.Machine.execSvcStartSent s
  | .svcAddrAck => Sys2Proof.Machine.execSvcAddrAck s
  | .svcAddrNack => Sys2Proof.Machine.execSvcAddrNack s
  | .svcDataAck => Sys2Proof.Machine.execSvcDataAck s
  | .svcDataNackStrict => Sys2Proof.Machine.execSvcDataNackStrict s
  | .svcDataNackIgnore => Sys2Proof.Machine.execSvcDataNackIgnore s
  | .svcArbLost => Sys2Proof.Machine.execSvcArbLost s
  | .svcOther code => Sys2Proof.Machine.execSvcOther code s
  | .init => Sys2Proof.Machine.execInit s
  | .xfer => Sys2Proof.Machine.execXfer s
  | .cmdRsvd0 => Sys2Proof.Machine.execCmdRsvd0 s
  | .cmdRsvd3 => Sys2Proof.Machine.execCmdRsvd3 s
  | .cmdRsvd4to7 low => Sys2Proof.Machine.execCmdRsvd4to7 low s
  | .cmdRsvd8toF low => Sys2Proof.Machine.execCmdRsvd8toF low s
  | .hostRd reg => Sys2Proof.Machine.execHostRd reg s
  | .hostWrCmd word => Sys2Proof.Machine.execHostWrCmd word s
  | .hostWrArgFreq value => Sys2Proof.Machine.execHostWrArgFreq value s
  | .hostWrArgPrio value => Sys2Proof.Machine.execHostWrArgPrio value s
  | .hostWrArgAddr value => Sys2Proof.Machine.execHostWrArgAddr value s
  | .hostWrArgBuf value => Sys2Proof.Machine.execHostWrArgBuf value s
  | .hostWrArgLen value => Sys2Proof.Machine.execHostWrArgLen value s
  | .hostWrIgn reg value => Sys2Proof.Machine.execHostWrIgn reg value s
  | .eStop => Sys2Proof.Machine.execEStop s
  | .eStoidle => Sys2Proof.Machine.execEStoidle s
  | .eStart other => Sys2Proof.Machine.execEStart other s
  | .eByte draw => Sys2Proof.Machine.execEByte draw s
  | .eRstart => Sys2Proof.Machine.execERstart s

end Sys2Proof.Machine
end

