-- ==== Sys2Proof/Machine/HostPrograms.lean ====
section
/-!
DEFINITION. Host contexts and their programs: the operations of 30_encoding.md R98 and the expansions of
the two caller-facing calls (R100; 40_host_interface.md R123 to R125). Each operation is one register access.
-/
namespace Sys2Proof.Machine

/-- The register access an operation makes (30_encoding.md R98). -/
def HostOp.instr : HostOp → Instr
  | .rd _ reg => .hostRd reg
  | .wr reg v => decodeWrite reg v
  | .spin _ reg _ _ => .hostRd reg
  | .rdAccepted _ _ _ => .hostRd 0x01

/-- Set variable number `k`, the variables before it being 0 until they are set. -/
def setVar : List Word → Nat → Word → List Word
  | [], 0, v => [v]
  | _ :: rest, 0, v => v :: rest
  | [], k + 1, v => 0 :: setVar [] k v
  | x :: rest, k + 1, v => x :: setVar rest k v

/-- The context after its next operation, `v` being the value the port returned
(30_encoding.md R98, R100; 40_host_interface.md R124). -/
def HostContext.advance (c : HostContext) (v : Word) : HostContext :=
  match c.prog with
  | [] => c
  | .rd dst _ :: rest => { prog := rest, vars := setVar c.vars dst v }
  | .wr _ _ :: rest => { prog := rest, vars := c.vars }
  | .spin dst _ mask value :: rest =>
    { prog := if v &&& mask = value then rest else c.prog, vars := setVar c.vars dst v }
  | .rdAccepted dst result skip :: rest =>
    if v.getLsbD 1 then { prog := rest, vars := setVar c.vars dst v }
    else { prog := rest.drop skip, vars := setVar (setVar c.vars dst v) result 0 }

/-- The next register access of host context `k`, if it has one. -/
def State.contextInstr (s : State) (k : Nat) : Option Instr :=
  match s.contexts[k]? with
  | none => none
  | some c => c.prog.head?.map HostOp.instr

/-- Host context `k` takes the value the port returned and moves on. -/
def State.advanceContext (s : State) (k : Nat) : State :=
  match s.contexts[k]? with
  | none => s
  | some c => { s with contexts := s.contexts.set k (c.advance s.rdData) }

/-- `initialize f, p` with `s` in variable `dst` (30_encoding.md R100). -/
def opsInitialize (dst : Nat) (f p : Word) : List HostOp :=
  [.wr 0x10 f, .wr 0x11 p, .wr 0x00 0x00000001, .rd dst 0x01]

/-- `transfer r, a, b, n` with `r` in variable `result` and `s`, `t` in variable `dst`
(30_encoding.md R100). -/
def opsTransfer (dst result : Nat) (a b n : Word) : List HostOp :=
  [.wr 0x12 a, .wr 0x13 b, .wr 0x14 n, .wr 0x00 0x00000002, .rdAccepted dst result 2,
    .spin dst 0x01 0x1 0x0, .rd result 0x02]

end Sys2Proof.Machine
end

