-- ==== Sys2Proof/Machine/Agents.lean ====
section
/-!
DEFINITION. The agents' turns (00_scope.md R4, R5): what a turn amounts to in a state, and its effect. A
turn of an agent with no enabled step changes nothing (R12).
-/
namespace Sys2Proof.Machine

/-- What one turn amounts to. -/
inductive Action where
  /-- A step of the opcode table. -/
  | run (i : Instr)
  /-- A fault of a host access (60_exceptions.md R205). -/
  | fault (r : FaultReason)
  /-- A host write to host memory (00_scope.md R11 `MemWrite`). -/
  | memWrite (addr : Nat) (bytes : List Byte)
  /-- A host write into the buffer of the transaction in flight (20_memory.md R68). -/
  | hazard (addr size : Nat)
  /-- A host write that runs past the top of the host address space (notes/assumptions/12.md). -/
  | edge (addr size : Nat)
  /-- No step is enabled, or the block has no part in the access. -/
  | idle
  deriving DecidableEq, Repr

/-- The service step of the pending event, when SI = 1 and IRQ_EN = 1 (41_event_fsm.md R140). -/
def State.fsmSelect (s : State) : Option Instr :=
  if s.si && s.irqEn then some (decodeStatus s.build.ignoreDataNack s.stat) else none

/-- A host access to the register block: decoded, or F_MMIO_ACCESS before anything else
(20_memory.md R62, 60_exceptions.md R213). It is never a hazard of R68, wherever the buffer lies (DESIGN
CHOICE, notes/assumptions/23.md). -/
def accessAction (a : Access) : Action :=
  match decodeAccess a with
  | .ok i => .run i
  | .error _ => .fault .mmioAccess

/-- The `n` bytes at `a` and the `m` bytes at `b` share an address. -/
def overlaps (a n b m : Nat) : Bool := 0 < n && 0 < m && a < b + m && b < a + n

/-- The access touches the register block at BASE + 0x00 to 0x7F (20_memory.md R61). -/
def State.touchesBlock (s : State) (addr size : Nat) : Bool := overlaps addr size s.build.base 128

/-- The write touches `[BUFBASE, BUFBASE + LENGTH)` while BUSY = 1 (20_memory.md R68). -/
def State.touchesBuffer (s : State) (addr size : Nat) : Bool :=
  s.busy && overlaps addr size s.bufbase.toNat s.length.toNat

/-- A host access to the block at an absolute address: 32-bit at a multiple of 4, else F_MMIO_ACCESS
(20_memory.md R62). The test is on the address and on the offset, so that with a `BASE` that is no multiple of
4 every such access faults (DESIGN CHOICE, notes/assumptions/22.md). -/
def State.blockAction (s : State) (write : Bool) (addr size : Nat) (value : Word) : Action :=
  if size = 4 ∧ addr % 4 = 0 ∧ s.build.base ≤ addr ∧ addr < s.build.base + 128 then
    accessAction { write := write, size := size,
                   offset := BitVec.ofNat 7 (addr - s.build.base), value := value }
  else .fault .mmioAccess

/-- A host load: of a register, or of host memory, in which the block has no part. -/
def State.loadAction (s : State) (addr size : Nat) : Action :=
  if s.touchesBlock addr size then s.blockAction false addr size 0 else .idle

/-- A host store: to a register (20_memory.md R61, before everything else by 60_exceptions.md R213), into the
buffer in flight (R68), past the top of the address space, or to host memory. With a buffer that lies over the
block, a register write inside the window of R68 is a register access and no hazard (DESIGN CHOICE,
notes/assumptions/23.md). -/
def State.storeAction (s : State) (addr : Nat) (bytes : List Byte) : Action :=
  if s.touchesBlock addr bytes.length then s.blockAction true addr bytes.length (wordOfBytes bytes)
  else if s.touchesBuffer addr bytes.length then .hazard addr bytes.length
  else if 4294967296 < addr + bytes.length then .edge addr bytes.length
  else .memWrite addr bytes

/-- The step an option names, or none. -/
def actionOf : Option Instr → Action
  | some i => .run i
  | none => .idle

/-- What a turn amounts to in state `s`. -/
def State.action (s : State) : Input → Action
  | .reg a => accessAction a
  | .load addr size => s.loadAction addr.toNat size
  | .store addr bytes => s.storeAction addr.toNat bytes
  | .turn k => actionOf (s.contextInstr k)
  | .service => actionOf s.fsmSelect
  | .engine d => actionOf (engineSelect s.engineFlags d)

/-- The effect of an action. -/
def runAction (a : Action) (s : State) : Host.Outcome State Fault Refusal :=
  match a with
  | .run i => exec i s
  | .fault r => .next (s.raiseFault r)
  | .memWrite addr bytes => .next { s with mem := s.mem.writeBytes addr bytes }
  | .hazard addr size => .next (s.hazardWrite addr size)
  | .edge addr size => .next (s.disturb addr size)
  | .idle => .next s

/-- A host context that took its turn moves on; every other turn leaves nothing to do. -/
def finishTurn (inp : Input) (o : Host.Outcome State Fault Refusal) : Host.Outcome State Fault Refusal :=
  match inp, o with
  | .turn k, .next t => .next (t.advanceContext k)
  | _, o => o

/-- One turn. -/
def runInput (inp : Input) (s : State) : Host.Outcome State Fault Refusal :=
  finishTurn inp (runAction (s.action inp) s)

/-- The step with the next turn of the schedule; with none left no agent moves. -/
def stepTurn (s : State) : Host.Outcome State Fault Refusal :=
  match s.inputs with
  | [] => .next s
  | inp :: rest => runInput inp { s with inputs := rest }

/-- Place what makes the very next turn run the step a code stands for: the pending event for a status
code, the CMD write for a command word, the access itself for an access (notes/assumptions/13.md). -/
def State.placeCode (s : State) (c : Code) : State :=
  match c with
  | .status ignoreDataNack code =>
    { s with
      stat := code
      si := true
      irqEn := true
      build := if code = Config.dataNack then { s.build with ignoreDataNack := ignoreDataNack } else s.build
      inputs := .service :: s.inputs }
  | .command w => { s with inputs := .reg (Access.wr 0x00 w) :: s.inputs }
  | .access a => { s with inputs := .reg a :: s.inputs }
  | .engine f d =>
    { s with
      en := f.en, si := f.si, sto := f.sto, sta := f.sta, owned := f.owned, last := f.last
      inputs := .engine d :: s.inputs }

end Sys2Proof.Machine
end

