-- ==== Sys2Proof/Machine/Step.lean ====
section
/-!
DEFINITION. One step of the machine: the next turn of the schedule (00_scope.md R5; 20_memory.md R70), and
how an instruction of the opcode table is placed where the step takes its next one from.
-/
namespace Sys2Proof.Machine

/-- One step: the next scheduled turn, atomically. -/
def step (s : State) : Host.Outcome State Fault Refusal := stepTurn s

/-- `s` with the instruction of a table word placed so that the next step runs it. A word the table does
not have places nothing. -/
def State.withFetchWord (s : State) (nbits w : Nat) : State :=
  match tableCode nbits w with
  | some c => s.placeCode c
  | none => s

end Sys2Proof.Machine
end

