-- ==== Sys2Proof/Safety.lean ====
section
/-!
DEFINITION. The terms claims are stated in: the life of a transaction (10_state.md R32), stuck and hung
states kept apart (60_exceptions.md R206, R207), the reachable-state invariant behind 41_event_fsm.md R150
and 42_bus_engine.md R186, schedules of a transaction, and infinite executions with their fairness and
`ENGINE_PROGRESS` (42_bus_engine.md R178; 92_eei_decisions.md D31).
-/
namespace Sys2Proof.Machine

/-- No fault has been raised: what a claim about the block's results asks of a run (60_exceptions.md R205). -/
def State.clean (s : State) : Bool := s.faultMark.isNone

/-- "idle: BUSY = 0" (10_state.md R32). -/
def State.isIdle (s : State) : Bool := !s.busy

/-- "armed: BUSY = 1 and the start event not yet serviced" (10_state.md R32). -/
def State.isArmed (s : State) : Bool := s.busy && (s.sta || (s.si && s.stat == Config.startSent))

/-- "driven: BUSY = 1 and the start event serviced" (10_state.md R32). -/
def State.isDriven (s : State) : Bool := s.busy && !s.isArmed

/-- The buffer index the pending handler would read, if it reads one (41_event_fsm.md R143, R145, R147). -/
def State.pendingIndex (s : State) : Option Nat :=
  if s.stat = Config.addrAck then (if s.cursor < s.length then some 0 else none)
  else if s.stat = Config.dataAck ∨ (s.stat = Config.dataNack ∧ s.build.ignoreDataNack = true) then
    (if s.nextCursor < s.length then some s.nextCursor.toNat else none)
  else none

/-- The FSM is stuck: its pending handler needs a buffer byte host memory does not admit
(60_exceptions.md R206). -/
def State.fsmStuck (s : State) : Bool :=
  s.si && s.irqEn && match s.pendingIndex with
    | some i => (s.bufferByte i).isNone
    | none => false

/-- The FSM has a step: an event is pending, enabled, and its handler is not stuck (41_event_fsm.md R140). -/
def State.fsmEnabled (s : State) : Bool := s.si && s.irqEn && !s.fsmStuck

/-- The engine has a step (42_bus_engine.md R172). -/
def State.engineEnabled (s : State) : Bool := (engineSelect s.engineFlags .ack).isSome

/-- Hang (a): an unrecognised code is pending in a transaction (60_exceptions.md R207). -/
def State.hungOnOther (s : State) : Bool := s.busy && s.si && !Config.recognised s.stat

/-- Hang (b): a transaction was armed and no INIT came before it (60_exceptions.md R207). -/
def State.hungBeforeInit (s : State) : Bool := s.busy && !s.en && !s.irqEn

/-- The byte in DAT is buffer[CURSOR] (41_event_fsm.md R150 (c)). -/
abbrev State.datIsBufferByte (s : State) : Prop := s.bufferByte s.cursor.toNat = some s.dat

/-- What every reachable state satisfies. It is inductive: `step` keeps it from every state that has it. -/
structure Inv (s : State) : Prop where
  /-- R150 (a). -/
  cursor_le : s.cursor.toNat ≤ s.length.toNat
  /-- The bounds XFER checked (R119). -/
  length_lt : s.length.toNat < 4294967295
  buffer_fits : s.bufbase.toNat + s.length.toNat ≤ 4294967296
  /-- The direction bit (R23). -/
  sla_write : s.sla.getLsbD 0 = false
  /-- R186 (a). -/
  owned_iff : s.owned = true ↔ s.last ≠ .noPhase
  /-- EN and IRQ_EN are set together (R120). -/
  irq_en : s.irqEn = s.en
  /-- No step sets AA (R39). -/
  aa_clear : s.aa = false
  /-- The bus moves only after INIT (R181). -/
  active_en : s.owned = true ∨ s.si = true ∨ s.sto = true → s.en = true
  /-- An event or a start request belongs to a transaction (R151). -/
  idle_quiet : s.busy = false → s.si = false ∧ s.sta = false
  /-- R186 (b). -/
  idle_owned : s.busy = false → s.owned = true → s.sto = true
  /-- R186 (d), and a stop pending in a transaction is the one before its start (R238). -/
  stop_pending : s.sto = true → s.owned = true ∧ s.si = false ∧ (s.busy = true → s.sta = true)
  /-- R186 (c): between XFER and the start event's service. -/
  start_pending : s.sta = true → s.busy = true ∧ s.cursor = 0 ∧
    (s.owned = true → s.sto = true ∨ (s.si = true ∧ s.stat = Config.startSent ∧ s.last = .start))
  /-- R150 (b) to (e): which events can be pending, and where. -/
  event_pending : s.si = true → Config.recognised s.stat = false ∨
    (s.stat = Config.startSent ∧ s.last = .start ∧ s.sta = true) ∨
    ((s.stat = Config.addrAck ∨ s.stat = Config.addrNack) ∧ s.last = .addr ∧ s.sta = false ∧
      s.cursor = 0 ∧ s.dat = s.sla) ∨
    ((s.stat = Config.dataAck ∨ s.stat = Config.dataNack) ∧ s.last = .data ∧ s.sta = false ∧
      s.cursor.toNat < s.length.toNat ∧ (s.clean = true → s.datIsBufferByte)) ∨
    (s.stat = Config.arbLost ∧ s.owned = false ∧ s.sta = false)
  /-- The byte about to be shifted: SLA after a start, buffer[CURSOR] after that. -/
  byte_ready : s.busy = true → s.si = false → s.sta = false →
    (s.last = .start ∧ s.cursor = 0 ∧ s.dat = s.sla) ∨
    ((s.last = .addr ∨ s.last = .data) ∧ s.cursor.toNat < s.length.toNat ∧
      (s.clean = true → s.datIsBufferByte))

/-- A state some run from launch reaches, whatever the build, host memory, host programs and schedule
(00_scope.md R5; 70_reset_and_hazards.md R230, R231). -/
def State.Reachable (s : State) : Prop :=
  ∃ build mem contexts inputs k, mem.wf = true ∧
    Host.Core.run Sys2Proof.core k (State.launch build mem contexts inputs) = .next s

/-- The turns of a transaction whose engine steps get these answers in order, each followed by the FSM's
turn (41_event_fsm.md R153). -/
def scriptOf : List Draw → List Input
  | [] => []
  | d :: ds => .engine d :: .service :: scriptOf ds

/-- The state an accepted XFER leaves on a free bus after INIT: armed, the start not yet made
(40_host_interface.md R118). -/
structure ReadyToStart (s : State) : Prop where
  en : s.en = true
  irqEn : s.irqEn = true
  busy : s.busy = true
  sta : s.sta = true
  sto : s.sto = false
  si : s.si = false
  owned : s.owned = false
  cursor : s.cursor = 0

/-- Host memory admits the first `n` bytes of the buffer. -/
abbrev State.bufferAdmitted (s : State) (n : Nat) : Prop := ∀ i, i < n → (s.bufferByte i).isSome = true

/-! ### Executions and fairness -/

/-- An infinite execution: the turns taken, one after another, and the states between them (00_scope.md R5). -/
structure Execution where
  turn : Nat → Input
  state : Nat → State
  steps : ∀ n, step { state n with inputs := [turn n] } = .next (state (n + 1))

/-- Weak fairness: "a step that stays enabled is eventually taken" (92_eei_decisions.md D31). -/
def WeaklyFair (enabled taken : Nat → Prop) : Prop :=
  ∀ n, (∀ m, n ≤ m → enabled m) → ∃ m, n ≤ m ∧ taken m

/-- The engine's turn with answer `d` takes a step: a guard holds, and the build admits the answer where the
step uses it (42_bus_engine.md R172, R178). -/
def State.takesEngine (s : State) (d : Draw) : Bool :=
  match engineSelect s.engineFlags d with
  | none => false
  | some (.eByte d) => s.admitsDraw d
  | some (.eStart (some c)) => s.admitsDraw (.other c)
  | some _ => true

/-- `ENGINE_PROGRESS` as a property of an execution: "every continuously enabled engine step is eventually
taken" (42_bus_engine.md R178), for each of the five steps. -/
def Execution.EngineProgress (e : Execution) : Prop :=
  ∀ guard ∈ [EngineFlags.stop, EngineFlags.stoidle, EngineFlags.startOk, EngineFlags.rstart,
      EngineFlags.byteOk],
    WeaklyFair (fun n => guard (e.state n).engineFlags = true)
      (fun n => guard (e.state n).engineFlags = true ∧
        ∃ d, e.turn n = .engine d ∧ (e.state n).takesEngine d = true)

/-- What the spec assumes of an execution (92_eei_decisions.md D31): the FSM and each host context are weakly
fair, and the engine makes progress where the parameter `ENGINE_PROGRESS` is true (00_scope.md R8). -/
structure Execution.Fair (e : Execution) : Prop where
  fsm : WeaklyFair (fun n => (e.state n).fsmEnabled = true) (fun n => e.turn n = .service)
  host : ∀ k, WeaklyFair (fun n => (e.state n).contextInstr k ≠ none) (fun n => e.turn n = .turn k)
  engine : (e.state 0).build.engineProgress = true → e.EngineProgress

end Sys2Proof.Machine
end

