-- ==== Sys2Proof/Certificates/Slice0/Obligations.lean ====
section
/-!
DEFINITION. The statements for the provers, each a `def Obligations.<Name> : Prop`. Each docstring names the
rules of spec/ it formalises.
-/

open Sys2Proof Sys2Proof.Machine

/-! ### Reset -/

/-- 10_state.md R52: every register after reset, for every build. -/
def Obligations.ResetRegisterValues : Prop :=
  (∀ build mem contexts inputs, let s := State.launch build mem contexts inputs
    s.sla = 0x00 ∧ s.bufbase = 0x00000000 ∧ s.length = 0x00000000 ∧ s.cursor = 0x00000000 ∧
    s.busy = false ∧ s.result = 0x00000000 ∧ s.cmdresp = false ∧ s.dat = 0x00 ∧ s.stat = 0xF8 ∧
    s.sta = false ∧ s.sto = false ∧ s.si = false ∧ s.aa = false ∧ s.en = false ∧ s.irqEn = false ∧
    s.scll = 0x0000 ∧ s.sclh = 0x0000 ∧ s.prio = 0x00 ∧
    s.cfgWord.toNat = build.ignoreDataNack.toNat ∧ s.owned = false ∧ s.last = .noPhase ∧
    s.argFreq = 0 ∧ s.argPrio = 0 ∧ s.argAddr = 0 ∧ s.argBuf = 0 ∧ s.argLen = 0 ∧
    s.faultMark = none) ∧
  State.reset = State.launch Config.build [] [] []

/-! ### Turns and decoding -/

/-- 00_scope.md R4, R5; 41_event_fsm.md R140; 42_bus_engine.md R172; 40_host_interface.md R110: a turn whose
code decodes to `i` is one step of `exec i`, the turn itself taken off the schedule; a host context that
took its turn then moves on. -/
def Obligations.StepRunsDecodedInstruction : Prop :=
  ∀ (s : State) (rest : List Input) (i : Instr), i.wf = true →
    (∀ a, s.inputs = .reg a :: rest → decode (.access a) = .ok i →
      step s = exec i { s with inputs := rest }) ∧
    (s.inputs = .service :: rest → s.si = true → s.irqEn = true →
      decode (.status s.build.ignoreDataNack s.stat) = .ok i →
      step s = exec i { s with inputs := rest }) ∧
    (∀ d, s.inputs = .engine d :: rest → decode (.engine s.engineFlags d) = .ok i →
      step s = exec i { s with inputs := rest }) ∧
    (∀ k c op ops t, s.inputs = .turn k :: rest → s.contexts[k]? = some c → c.prog = op :: ops →
      op.instr = i → exec i { s with inputs := rest } = .next t →
      step s = .next { t with contexts := t.contexts.set k (c.advance t.rdData) })

/-- 00_scope.md R12: a turn of an agent with no enabled step only takes the turn off the schedule, and with
no turn left nothing moves. -/
def Obligations.TurnWithoutStepChangesNothing : Prop :=
  ∀ (s : State) (rest : List Input),
    (s.inputs = [] → step s = .next s) ∧
    (s.inputs = .service :: rest → (s.si = false ∨ s.irqEn = false) →
      step s = .next { s with inputs := rest }) ∧
    (∀ d, s.inputs = .engine d :: rest → decode (.engine s.engineFlags d) = .error .noEngineStep →
      step s = .next { s with inputs := rest }) ∧
    (∀ k, s.inputs = .turn k :: rest → s.contexts[k]? = none →
      step s = .next { s with inputs := rest }) ∧
    (∀ k c, s.inputs = .turn k :: rest → s.contexts[k]? = some c → c.prog = [] →
      step s = .next { s with inputs := rest })

/-- Sanity of the decoder: ten words written out from the tables of 30_encoding.md R88, R92, R94 (CMD[31:4] not
looked at), 20_memory.md R61 and the guards of 42_bus_engine.md R172, and two accesses 20_memory.md R62
refuses. -/
def Obligations.DecodedWordsOfTheTables : Prop :=
  decode (.status false 0b00001000) = .ok .svcStartSent ∧
  decode (.status true 0b00110000) = .ok .svcDataNackIgnore ∧
  decode (.status false 0b00110000) = .ok .svcDataNackStrict ∧
  decode (.status false 0b00010000) = .ok (.svcOther 0x10) ∧
  decode (.command 0xABCD0001) = .ok .init ∧
  decode (.command 0xFFFFFFF2) = .ok .xfer ∧
  decode (.command 0x0000000D) = .ok (.cmdRsvd8toF 0b101) ∧
  decode (.access ⟨true, 4, 0x48, 0xA7⟩) = .ok (.hostWrArgAddr 0xA7) ∧
  decode (.access ⟨false, 4, 0x7C, 0⟩) = .ok (.hostRd 0x1F) ∧
  decode (.access ⟨true, 2, 0x04, 0⟩) = .error .accessNotWord ∧
  decode (.access ⟨false, 4, 0x06, 0⟩) = .error .accessMisaligned ∧
  decode (.engine ⟨true, false, true, true, true, .data⟩ .ack) = .ok .eStop

/-- 30_encoding.md R85 to R92: decoding the encoding of a well-formed step gives it back, with every operand
at every value the encoding admits. -/
def Obligations.DecodeEncodeAgree : Prop :=
  ∀ i : Instr, i.wf = true → decode (encode i) = .ok i

/-- 30_encoding.md R89 to R94, 40_host_interface.md R113: whatever is decoded, with an answer the environment
can give, is well formed. -/
def Obligations.DecodedIsWellFormed : Prop :=
  ∀ (c : Code) (i : Instr), (∀ f d, c = .engine f d → d.wf = true) → decode c = .ok i → i.wf = true

/-- No step of the opcode table stops the machine, from any state, and none writes host memory, the build,
the schedule or a host context (20_memory.md R60.2; 00_scope.md R9); nor does any turn stop it. That a fault
is a next state is the model's reading of R205 (notes/assumptions/1.md), that an instruction outside its guard
answers the same state its reading of R12 (2.md, 20.md), and that a host write past the top of the address
space is a next state its choice (12.md). -/
def Obligations.EveryInstructionCompletes : Prop :=
  (∀ (i : Instr) (s : State), ∃ t, exec i s = .next t ∧
    t.mem = s.mem ∧ t.build = s.build ∧ t.inputs = s.inputs ∧ t.contexts = s.contexts) ∧
  ∀ s : State, ∃ t, step s = .next t

/-! ### Host port -/

/-- 40_host_interface.md R111: the value each offset reads as; no register changes. -/
def Obligations.HostReadValues : Prop :=
  ∀ (s : State) (reg : RegIndex), ∃ v : Word, exec (.hostRd reg) s = .next { s with rdData := v } ∧
    v.toNat =
      if reg.toNat * 4 = 0x04 then 2 * s.cmdresp.toNat + s.busy.toNat
      else if reg.toNat * 4 = 0x08 then s.result.toNat
      else if reg.toNat * 4 = 0x0C then s.cursor.toNat
      else if reg.toNat * 4 = 0x10 then s.length.toNat
      else if reg.toNat * 4 = 0x14 then s.sla.toNat
      else if reg.toNat * 4 = 0x18 then s.bufbase.toNat
      else if reg.toNat * 4 = 0x1C then s.stat.toNat
      else if reg.toNat * 4 = 0x20 then
        128 * s.irqEn.toNat + 64 * s.en.toNat + 32 * s.sta.toNat + 16 * s.sto.toNat +
          8 * s.si.toNat + 4 * s.aa.toNat
      else if reg.toNat * 4 = 0x24 then s.dat.toNat
      else if reg.toNat * 4 = 0x28 then s.scll.toNat
      else if reg.toNat * 4 = 0x2C then s.sclh.toNat
      else if reg.toNat * 4 = 0x30 then s.prio.toNat
      else if reg.toNat * 4 = 0x34 then s.build.ignoreDataNack.toNat
      else if reg.toNat * 4 = 0x38 then
        2 * (match s.last with | .noPhase => 0 | .start => 1 | .addr => 2 | .data => 3) +
          s.owned.toNat
      else if reg.toNat * 4 = 0x40 then s.argFreq.toNat
      else if reg.toNat * 4 = 0x44 then s.argPrio.toNat
      else if reg.toNat * 4 = 0x48 then s.argAddr.toNat
      else if reg.toNat * 4 = 0x4C then s.argBuf.toNat
      else if reg.toNat * 4 = 0x50 then s.argLen.toNat
      else 0

/-- 40_host_interface.md R112: a staging write stores the value cut to the register's width and changes
nothing else, whether or not a transaction is in flight. -/
def Obligations.StagingWrites : Prop :=
  ∀ (s : State) (v : Word),
    exec (.hostWrArgFreq v) s = .next { s with argFreq := v } ∧
    (∃ p : Byte, p.toNat = v.toNat % 256 ∧
      exec (.hostWrArgPrio v) s = .next { s with argPrio := p }) ∧
    (∃ a : Addr7, a.toNat = v.toNat % 128 ∧
      exec (.hostWrArgAddr v) s = .next { s with argAddr := a }) ∧
    exec (.hostWrArgBuf v) s = .next { s with argBuf := v } ∧
    exec (.hostWrArgLen v) s = .next { s with argLen := v }

/-- 40_host_interface.md R113: a 32-bit write at 0x04 to 0x3C or 0x54 to 0x7C is ignored, as an instruction
and as a turn of the host. -/
def Obligations.IgnoredWrites : Prop :=
  ∀ (s : State) (reg : RegIndex) (v : Word),
    (1 ≤ reg.toNat ∧ reg.toNat ≤ 15) ∨ 21 ≤ reg.toNat →
    exec (.hostWrIgn reg v) s = .next s ∧
    ∀ rest, s.inputs = .reg (Access.wr reg v) :: rest → step s = .next { s with inputs := rest }

/-- 20_memory.md R62: an access to the block of another width or alignment raises F_MMIO_ACCESS and has no
other effect. -/
def Obligations.BadAccessFaults : Prop :=
  ∀ (s : State) (rest : List Input) (a : Access), s.inputs = .reg a :: rest →
    (a.size ≠ 4 ∨ a.offset.toNat % 4 ≠ 0) →
    step s = .next { s with inputs := rest, faultMark := s.faultMark.or (some .mmioAccess) }

/-- 20_memory.md R61, R62, R63, R71 at host addresses: an aligned 32-bit access at BASE + offset is the access
at that offset, the byte at the lowest address being bits [7:0]; any other access that touches the block, at
the top of the address space too (60_exceptions.md R213), raises F_MMIO_ACCESS and has no other effect
(notes/assumptions/11.md, 22.md). -/
def Obligations.AbsoluteAccessIsOffsetAccess : Prop :=
  ∀ (s : State) (rest : List Input) (addr : Word) (off : BitVec 7),
    (s.build.base % 4 = 0 → addr.toNat = s.build.base + off.toNat → off.toNat % 4 = 0 →
      (∀ i, decode (.access ⟨false, 4, off, 0⟩) = .ok i → s.inputs = .load addr 4 :: rest →
        step s = exec i { s with inputs := rest }) ∧
      (∀ (b0 b1 b2 b3 : Byte) (v : Word) i,
        v.toNat = b0.toNat + 256 * b1.toNat + 65536 * b2.toNat + 16777216 * b3.toNat →
        decode (.access ⟨true, 4, off, v⟩) = .ok i → s.inputs = .store addr [b0, b1, b2, b3] :: rest →
        step s = exec i { s with inputs := rest })) ∧
    (∀ size, s.inputs = .load addr size :: rest → addr.toNat < s.build.base + 128 →
      s.build.base < addr.toNat + size → 0 < size →
      (size ≠ 4 ∨ addr.toNat % 4 ≠ 0) →
      step s = .next { s with inputs := rest, faultMark := s.faultMark.or (some .mmioAccess) }) ∧
    (∀ bytes, s.inputs = .store addr bytes :: rest → addr.toNat < s.build.base + 128 →
      s.build.base < addr.toNat + bytes.length → 0 < bytes.length →
      (bytes.length ≠ 4 ∨ addr.toNat % 4 ≠ 0) →
      step s = .next { s with inputs := rest, faultMark := s.faultMark.or (some .mmioAccess) })

/-- 40_host_interface.md R114 and 30_encoding.md R94: a CMD write runs the command CMD[3:0] selects, whatever
CMD[31:4] is. -/
def Obligations.CommandWordSelectsByLowBits : Prop :=
  ∀ (s : State) (w : Word),
    (w.toNat % 16 = 1 → exec (.hostWrCmd w) s = exec .init s) ∧
    (w.toNat % 16 = 2 → exec (.hostWrCmd w) s = exec .xfer s) ∧
    (w.toNat % 16 ≠ 1 → w.toNat % 16 ≠ 2 →
      exec (.hostWrCmd w) s = .next { s with cmdresp := false }) ∧
    (∀ w' : Word, w'.toNat % 16 = w.toNat % 16 → exec (.hostWrCmd w') s = exec (.hostWrCmd w) s)

/-- 40_host_interface.md R121: a reserved command only clears CMDRESP, busy or not. -/
def Obligations.ReservedCommands : Prop :=
  ∀ (s : State) (l2 : BitVec 2) (l3 : BitVec 3),
    exec .cmdRsvd0 s = .next { s with cmdresp := false } ∧
    exec .cmdRsvd3 s = .next { s with cmdresp := false } ∧
    exec (.cmdRsvd4to7 l2) s = .next { s with cmdresp := false } ∧
    exec (.cmdRsvd8toF l3) s = .next { s with cmdresp := false }

/-! ### INIT -/

/-- 40_host_interface.md R115 with the divider of R116, the floor and the ceiling said by inequalities: the
refusal, the two faults in their order, and the accepted INIT. -/
def Obligations.InitEffect : Prop :=
  ∀ (s : State) (low period : Nat),
    (s.busy = true → exec .init s = .next { s with cmdresp := false }) ∧
    (s.busy = false → s.argFreq.toNat = 0 →
      exec .init s = .next { s with faultMark := s.faultMark.or (some .initFreqZero) }) ∧
    (s.busy = false → 0 < s.argFreq.toNat →
      low * (2 * s.argFreq.toNat) ≤ s.build.pclk → s.build.pclk < (low + 1) * (2 * s.argFreq.toNat) →
      s.build.pclk ≤ period * s.argFreq.toNat → period * s.argFreq.toNat < s.build.pclk + s.argFreq.toNat →
      ((low = 0 ∨ 65535 < period - low) →
        exec .init s = .next { s with faultMark := s.faultMark.or (some .initDivRange) }) ∧
      (0 < low → period - low ≤ 65535 →
        ∃ l h : Divider, l.toNat = low ∧ h.toNat = period - low ∧
          exec .init s = .next { s with scll := l, sclh := h, prio := s.argPrio, en := true,
                                        irqEn := true, cmdresp := true }))

/-- 40_host_interface.md R116 and 70_reset_and_hazards.md R243: after an accepted INIT, SCLH - SCLL is 0, 1
or 2, SCLL + SCLH is the least period that is no shorter than asked, and so the bus is never faster. -/
def Obligations.DividerShape : Prop :=
  ∀ (s : State), s.busy = false → 0 < s.argFreq.toNat →
    divOutOfRange s.build.pclk s.argFreq.toNat = false →
    ∃ t, exec .init s = .next t ∧ t.cmdresp = true ∧
    t.scll.toNat ≤ t.sclh.toNat ∧ t.sclh.toNat ≤ t.scll.toNat + 2 ∧
    s.build.pclk ≤ (t.scll.toNat + t.sclh.toNat) * s.argFreq.toNat ∧
    (t.scll.toNat + t.sclh.toNat) * s.argFreq.toNat < s.build.pclk + s.argFreq.toNat

/-! ### XFER -/

/-- 40_host_interface.md R118: an accepted XFER arms the transaction in one step, whatever EN, IRQ_EN, STO and
OWNED are, and leaves RESULT as it was; the CMD write that selects it does the same (R114). -/
def Obligations.XferAccepted : Prop :=
  ∀ (s : State) (a : Byte), s.busy = false → s.argLen.toNat ≠ 4294967295 →
    s.argBuf.toNat + s.argLen.toNat ≤ 2 ^ 32 → a.toNat = 2 * s.argAddr.toNat →
    ∀ i : Instr, (i = .xfer ∨ ∃ w : Word, i = .hostWrCmd w ∧ w.toNat % 16 = 2) →
      exec i s = .next { s with sla := a, bufbase := s.argBuf, length := s.argLen, cursor := 0,
                                busy := true, sta := true, cmdresp := true }

/-- 40_host_interface.md R117, R119: XFER while BUSY = 1 clears CMDRESP and touches nothing else; with
BUSY = 0, the two operand faults, the length first, and no register changed. -/
def Obligations.XferNotAccepted : Prop :=
  ∀ s : State,
    (s.busy = true → exec .xfer s = .next { s with cmdresp := false }) ∧
    (s.busy = false → s.argLen.toNat = 4294967295 →
      exec .xfer s = .next { s with faultMark := s.faultMark.or (some .xferLen) }) ∧
    (s.busy = false → s.argLen.toNat ≠ 4294967295 →
      2 ^ 32 < s.argBuf.toNat + s.argLen.toNat →
      exec .xfer s = .next { s with faultMark := s.faultMark.or (some .xferWrap) })

/-! ### Event FSM -/

/-- 41_event_fsm.md R140: the FSM's turn runs the handler STAT selects, and 0x30 is decided by CFG[0]. That the
turn without a step answers the same state is the model's reading of 00_scope.md R12 (notes/assumptions/2.md). -/
def Obligations.ServiceDispatch : Prop :=
  ∀ (s : State) (rest : List Input), s.inputs = .service :: rest →
    ((s.si = false ∨ s.irqEn = false) → step s = .next { s with inputs := rest }) ∧
    (s.si = true → s.irqEn = true →
      (s.stat = 0x08 → step s = exec .svcStartSent { s with inputs := rest }) ∧
      (s.stat = 0x18 → step s = exec .svcAddrAck { s with inputs := rest }) ∧
      (s.stat = 0x20 → step s = exec .svcAddrNack { s with inputs := rest }) ∧
      (s.stat = 0x28 → step s = exec .svcDataAck { s with inputs := rest }) ∧
      (s.stat = 0x30 → s.build.ignoreDataNack = false →
        step s = exec .svcDataNackStrict { s with inputs := rest }) ∧
      (s.stat = 0x30 → s.build.ignoreDataNack = true →
        step s = exec .svcDataNackIgnore { s with inputs := rest }) ∧
      (s.stat = 0x38 → step s = exec .svcArbLost { s with inputs := rest }) ∧
      (s.stat ≠ 0x08 → s.stat ≠ 0x18 → s.stat ≠ 0x20 → s.stat ≠ 0x28 → s.stat ≠ 0x30 → s.stat ≠ 0x38 →
        step s = exec (.svcOther s.stat) { s with inputs := rest }))

/-- 41_event_fsm.md R142. -/
def Obligations.StartSentEffect : Prop :=
  ∀ s : State, s.si = true → s.irqEn = true → s.stat = 0x08 →
    exec .svcStartSent s = .next { s with dat := s.sla, sta := false, si := false }

/-- 41_event_fsm.md R143, with the buffer byte read at BUFBASE. -/
def Obligations.AddrAckEffect : Prop :=
  ∀ (s : State) (b : Byte), s.si = true → s.irqEn = true → s.stat = 0x18 →
    (s.cursor.toNat < s.length.toNat → s.mem.read s.bufbase.toNat = some b →
      exec .svcAddrAck s = .next { s with dat := b, sta := false, si := false }) ∧
    (s.length.toNat ≤ s.cursor.toNat →
      exec .svcAddrAck s = .next { s with sta := false, sto := true, result := s.cursor,
                                          busy := false, si := false })

/-- 41_event_fsm.md R144. -/
def Obligations.AddrNackEffect : Prop :=
  ∀ s : State, s.si = true → s.irqEn = true → s.stat = 0x20 →
    exec .svcAddrNack s = .next { s with sto := true, result := 0xFFFFFFFF, busy := false, si := false }

/-- 41_event_fsm.md R145: the cursor advances; below LENGTH the next buffer byte is emitted, else the
transaction ends. -/
def Obligations.DataAckEffect : Prop :=
  ∀ (s : State) (c : Word) (b : Byte), s.si = true → s.irqEn = true → s.stat = 0x28 →
    c.toNat = s.cursor.toNat + 1 →
    (c.toNat < s.length.toNat → s.bufbase.toNat + c.toNat < 2 ^ 32 →
      s.mem.read (s.bufbase.toNat + c.toNat) = some b →
      exec .svcDataAck s = .next { s with cursor := c, dat := b, si := false }) ∧
    (s.length.toNat ≤ c.toNat →
      exec .svcDataAck s = .next { s with cursor := c, sto := true, result := c, busy := false,
                                          si := false })

/-- 41_event_fsm.md R146. -/
def Obligations.DataNackStrictEffect : Prop :=
  ∀ s : State, s.si = true → s.irqEn = true → s.stat = 0x30 → s.build.ignoreDataNack = false →
    exec .svcDataNackStrict s = .next { s with sto := true, result := s.cursor, busy := false,
                                               si := false }

/-- 41_event_fsm.md R147: the pseudocode of R145. -/
def Obligations.DataNackIgnoreEffect : Prop :=
  ∀ (s : State) (c : Word) (b : Byte), s.si = true → s.irqEn = true → s.stat = 0x30 →
    s.build.ignoreDataNack = true → c.toNat = s.cursor.toNat + 1 →
    (c.toNat < s.length.toNat → s.bufbase.toNat + c.toNat < 2 ^ 32 →
      s.mem.read (s.bufbase.toNat + c.toNat) = some b →
      exec .svcDataNackIgnore s = .next { s with cursor := c, dat := b, si := false }) ∧
    (s.length.toNat ≤ c.toNat →
      exec .svcDataNackIgnore s = .next { s with cursor := c, sto := true, result := c, busy := false,
                                                 si := false })

/-- The model's choice (notes/assumptions/10.md), outside the reachable states of 41_event_fsm.md R150: with
CURSOR at its greatest value the advanced cursor is the free value, and every other effect of R145 and R147
follows from it, the stuck case of 20_memory.md R67 included. -/
def Obligations.AdvancePastTopUsesFreeValue : Prop :=
  ∀ (s : State) (i : Instr) (c : Word), s.si = true → s.irqEn = true → s.cursor = 0xFFFFFFFF →
    c = Config.cursorPastTop s.length →
    (i = .svcDataAck ∧ s.stat = 0x28 ∨
      i = .svcDataNackIgnore ∧ s.stat = 0x30 ∧ s.build.ignoreDataNack = true) →
    exec i s = .next
      (if s.length.toNat ≤ c.toNat then
        { s with cursor := c, sto := true, result := c, busy := false, si := false }
      else
        match s.portRead (s.bufbase.toNat + c.toNat) with
        | some b => { s with cursor := c, dat := b, si := false }
        | none => s)

/-- 41_event_fsm.md R148. -/
def Obligations.ArbLostEffect : Prop :=
  ∀ s : State, s.si = true → s.irqEn = true → s.stat = 0x38 →
    exec .svcArbLost s = .next { s with sta := false, sto := false, aa := false, result := s.cursor,
                                        busy := false, si := false }

/-- 41_event_fsm.md R149: "No action". -/
def Obligations.OtherChangesNothing : Prop :=
  ∀ (s : State) (c : Byte), s.si = true → s.irqEn = true → s.stat = c →
    c ≠ 0x08 → c ≠ 0x18 → c ≠ 0x20 → c ≠ 0x28 → c ≠ 0x30 → c ≠ 0x38 →
    exec (.svcOther c) s = .next s

/-- 20_memory.md R67, 60_exceptions.md R206: a service step whose buffer byte host memory does not admit is
not taken: no register changes, no fault is raised, and the FSM stays stuck. -/
def Obligations.UnadmittedReadIsStuck : Prop :=
  ∀ (s : State) (rest : List Input), s.inputs = .service :: rest → s.si = true → s.irqEn = true →
    (s.stat = 0x18 → s.cursor.toNat < s.length.toNat → s.portRead s.bufbase.toNat = none →
      step s = .next { s with inputs := rest } ∧ s.fsmStuck = true) ∧
    (s.stat = 0x28 ∨ (s.stat = 0x30 ∧ s.build.ignoreDataNack = true) →
      s.cursor.toNat + 1 < s.length.toNat →
      s.portRead (s.bufbase.toNat + (s.cursor.toNat + 1)) = none →
      step s = .next { s with inputs := rest } ∧ s.fsmStuck = true)

/-- 41_event_fsm.md R152: what no handler writes, from any state. -/
def Obligations.HandlersFrame : Prop :=
  ∀ (i : Instr) (s t : State), exec i s = .next t →
    i ∈ [.svcStartSent, .svcAddrAck, .svcAddrNack, .svcDataAck, .svcDataNackStrict,
      .svcDataNackIgnore, .svcArbLost] ∨ (∃ c, i = .svcOther c) →
    t.sla = s.sla ∧ t.bufbase = s.bufbase ∧ t.length = s.length ∧ t.en = s.en ∧ t.irqEn = s.irqEn ∧
    t.scll = s.scll ∧ t.sclh = s.sclh ∧ t.prio = s.prio ∧ t.cfgWord = s.cfgWord ∧
    t.cmdresp = s.cmdresp ∧ t.owned = s.owned ∧ t.last = s.last ∧ t.stat = s.stat ∧
    t.argFreq = s.argFreq ∧ t.argPrio = s.argPrio ∧ t.argAddr = s.argAddr ∧ t.argBuf = s.argBuf ∧
    t.argLen = s.argLen ∧ t.faultMark = s.faultMark ∧ t.mem = s.mem ∧ t.wire = s.wire ∧
    (t.aa = true → s.aa = true) ∧ (t.sta = true → s.sta = true)

/-- 41_event_fsm.md R152 and 20_memory.md R66: a handler's only use of host memory is the one buffer byte it
emits: two memories that agree on it give the same step. -/
def Obligations.HandlersReadOneByte : Prop :=
  ∀ (i : Instr) (s t : State) (m : Memory), exec i s = .next t →
    (∀ k, s.pendingIndex = some k → m.read (s.bufbase.toNat + k) = s.mem.read (s.bufbase.toNat + k)) →
    exec i { s with mem := m } = .next { t with mem := m }

/-! ### Bus engine -/

/-- 42_bus_engine.md R172: the guards, and their exclusion and priority: the engine's choice is the step whose
guard holds, and none when no guard holds. -/
def Obligations.EngineGuards : Prop :=
  ∀ (f : EngineFlags) (d : Draw),
    (engineSelect f d = some .eStop ↔
      f.en = true ∧ f.si = false ∧ f.sto = true ∧ f.owned = true) ∧
    (engineSelect f d = some .eStoidle ↔
      f.en = true ∧ f.si = false ∧ f.sto = true ∧ f.owned = false) ∧
    ((∃ o, engineSelect f d = some (.eStart o)) ↔
      f.en = true ∧ f.si = false ∧ f.sto = false ∧ f.sta = true ∧ f.owned = false) ∧
    (engineSelect f d = some .eRstart ↔
      f.en = true ∧ f.si = false ∧ f.sto = false ∧ f.sta = true ∧ f.owned = true) ∧
    (engineSelect f d = some (.eByte d) ↔
      f.en = true ∧ f.si = false ∧ f.sto = false ∧ f.sta = false ∧ f.owned = true ∧
        f.last ≠ .noPhase) ∧
    (engineSelect f d = none ↔
      ¬ (f.en = true ∧ f.si = false ∧
        (f.sto = true ∨ f.sta = true ∨ (f.owned = true ∧ f.last ≠ .noPhase))))

/-- 42_bus_engine.md R171, R181: while SI = 1 or EN = 0 no engine step is enabled, whatever the environment
answers. That an engine instruction run then answers the same state is the model's reading of 00_scope.md R12
(notes/assumptions/2.md, 20.md). -/
def Obligations.EngineHeld : Prop :=
  ∀ (s : State), s.si = true ∨ s.en = false →
    exec .eStop s = .next s ∧ exec .eStoidle s = .next s ∧ exec .eRstart s = .next s ∧
    (∀ o, exec (.eStart o) s = .next s) ∧ (∀ d, exec (.eByte d) s = .next s) ∧
    (∀ d, engineSelect s.engineFlags d = none)

/-- 42_bus_engine.md R173. -/
def Obligations.StopEffect : Prop :=
  ∀ s : State, s.en = true → s.si = false → s.sto = true → s.owned = true →
    exec .eStop s = .next { s with sto := false, owned := false, last := .noPhase, stat := 0xF8,
                                   wire := .stop :: s.wire }

/-- 42_bus_engine.md R175: the start and its event; STA stays. -/
def Obligations.StartEffect : Prop :=
  ∀ s : State, s.en = true → s.si = false → s.sto = false → s.sta = true → s.owned = false →
    exec (.eStart none) s = .next { s with owned := true, last := .start, stat := 0x08, si := true,
                                           wire := .start :: s.wire }

/-- 42_bus_engine.md R176, R182: the byte in DAT is shifted; the address byte comes after a start, and the
answer selects the code. -/
def Obligations.ByteEffect : Prop :=
  ∀ s : State, s.en = true → s.si = false → s.sto = false → s.sta = false → s.owned = true →
    (s.last = .start →
      exec (.eByte .ack) s = .next { s with stat := 0x18, last := .addr, si := true,
                                            wire := .byte s.dat .ack :: s.wire } ∧
      exec (.eByte .nack) s = .next { s with stat := 0x20, last := .addr, si := true,
                                             wire := .byte s.dat .nack :: s.wire }) ∧
    (s.last = .addr ∨ s.last = .data →
      exec (.eByte .ack) s = .next { s with stat := 0x28, last := .data, si := true,
                                            wire := .byte s.dat .ack :: s.wire } ∧
      exec (.eByte .nack) s = .next { s with stat := 0x30, last := .data, si := true,
                                             wire := .byte s.dat .nack :: s.wire }) ∧
    (s.last ≠ .noPhase → s.build.arbEnv = true →
      exec (.eByte .arb) s = .next { s with stat := 0x38, owned := false, last := .noPhase, si := true,
                                            wire := .byte s.dat .arb :: s.wire })

/-- 42_bus_engine.md R180: with `OTHER_ENV` an unrecognised code may take the place of the event of a start
or a byte, OWNED and LAST keeping their values; without it the code is never delivered. That the instruction
carrying such a code then answers the same state is the model's choice (notes/assumptions/4.md). -/
def Obligations.OtherCodeReplacesEvent : Prop :=
  ∀ (s : State) (c : Byte), s.en = true → s.si = false → s.sto = false →
    c ≠ 0x08 → c ≠ 0x18 → c ≠ 0x20 → c ≠ 0x28 → c ≠ 0x30 → c ≠ 0x38 →
    (s.build.otherEnv = true → s.sta = true → s.owned = false →
      exec (.eStart (some c)) s = .next { s with stat := c, si := true, wire := .other c :: s.wire }) ∧
    (s.build.otherEnv = true → s.sta = false → s.owned = true → s.last ≠ .noPhase →
      exec (.eByte (.other c)) s = .next { s with stat := c, si := true, wire := .other c :: s.wire }) ∧
    (s.build.otherEnv = false →
      exec (.eStart (some c)) s = .next s ∧ exec (.eByte (.other c)) s = .next s)

/-- The model's choice (notes/assumptions/4.md), for the answers that 42_bus_engine.md R178 to R180 rule out:
without `ARB_ENV` the instruction eByte carrying an arbitration loss, and without `OTHER_ENV` the instructions
eByte and eStart carrying a replacing code, answer the same state. It speaks of the instructions and not of a
turn: an engine turn whose answer its step does not use takes that step. -/
def Obligations.AbsentDrawsGiveNoStep : Prop :=
  ∀ s : State,
    (s.build.arbEnv = false → exec (.eByte .arb) s = .next s) ∧
    (s.build.otherEnv = false → ∀ c, exec (.eByte (.other c)) s = .next s ∧
      exec (.eStart (some c)) s = .next s)

/-- 42_bus_engine.md R174, R177: the two steps kept for totality: the idle stop only clears STO, and the
repeated start raises RSTART_SENT. -/
def Obligations.IdleStopAndRepeatedStartEffect : Prop :=
  ∀ s : State, s.en = true → s.si = false →
    (s.sto = true → s.owned = false → exec .eStoidle s = .next { s with sto := false }) ∧
    (s.sto = false → s.sta = true → s.owned = true →
      exec .eRstart s = .next { s with last := .start, stat := 0x10, si := true,
                                       wire := .rstart :: s.wire })

/-- 42_bus_engine.md R170 and 20_memory.md R60.2: no engine step writes the transaction context, CMDRESP, DAT,
STA, AA, EN, IRQ_EN, the dividers, PRIO, a staging register, the fault mark or host memory. -/
def Obligations.EngineFrame : Prop :=
  ∀ (i : Instr) (s t : State), exec i s = .next t →
    i = .eStop ∨ i = .eStoidle ∨ i = .eRstart ∨ (∃ o, i = .eStart o) ∨ (∃ d, i = .eByte d) →
    t.sla = s.sla ∧ t.bufbase = s.bufbase ∧ t.length = s.length ∧ t.cursor = s.cursor ∧
    t.busy = s.busy ∧ t.result = s.result ∧ t.cmdresp = s.cmdresp ∧ t.dat = s.dat ∧ t.sta = s.sta ∧
    t.aa = s.aa ∧ t.en = s.en ∧ t.irqEn = s.irqEn ∧ t.scll = s.scll ∧ t.sclh = s.sclh ∧
    t.prio = s.prio ∧ t.argFreq = s.argFreq ∧ t.argPrio = s.argPrio ∧ t.argAddr = s.argAddr ∧
    t.argBuf = s.argBuf ∧ t.argLen = s.argLen ∧ t.faultMark = s.faultMark ∧ t.mem = s.mem ∧
    t.rdData = s.rdData ∧ (t.sto = true → s.sto = true)

/-! ### Host memory and faults -/

/-- 20_memory.md R68: a host write to a byte of the buffer of the transaction in flight raises
F_BUF_HAZARD and changes no register; every byte outside the write reads as before. What the written bytes
hold then is a free value (notes/assumptions/7.md). -/
def Obligations.BufferHazardFaults : Prop :=
  ∀ (s : State) (rest : List Input) (addr : Word) (bytes : List Byte) (k : Nat),
    s.inputs = .store addr bytes :: rest → s.busy = true →
    (s.build.base + 128 ≤ addr.toNat ∨ addr.toNat + bytes.length ≤ s.build.base) →
    addr.toNat ≤ k → k < addr.toNat + bytes.length →
    s.bufbase.toNat ≤ k → k < s.bufbase.toNat + s.length.toNat →
    ∃ t, step s = .next t ∧
      t = { s with inputs := rest, faultMark := s.faultMark.or (some .bufHazard), mem := t.mem,
                   openDraws := t.openDraws } ∧
      ∀ a, a < addr.toNat ∨ addr.toNat + bytes.length ≤ a → t.mem.read a = s.mem.read a

/-- 20_memory.md R60.2, R68, R73 (b): any other host write to host memory changes no register and no byte
outside it, and inside the address space its bytes read as written. That they do at every address rests on the
model's choice that a host write makes its bytes readable (notes/assumptions/6.md), and what a write that runs
past the top of the address space leaves in its bytes is a free value (12.md). -/
def Obligations.HostWriteLands : Prop :=
  ∀ (s : State) (rest : List Input) (addr : Word) (bytes : List Byte),
    s.inputs = .store addr bytes :: rest → s.mem.wf = true →
    (s.build.base + 128 ≤ addr.toNat ∨ addr.toNat + bytes.length ≤ s.build.base) →
    (s.busy = false ∨ addr.toNat + bytes.length ≤ s.bufbase.toNat ∨
      s.bufbase.toNat + s.length.toNat ≤ addr.toNat) →
    ∃ t, step s = .next t ∧
      (∀ a, a < addr.toNat ∨ addr.toNat + bytes.length ≤ a → t.mem.read a = s.mem.read a) ∧
      (addr.toNat + bytes.length ≤ 2 ^ 32 → t = { s with inputs := rest, mem := t.mem } ∧
        ∀ k, k < bytes.length → t.mem.read (addr.toNat + k) = bytes[k]?) ∧
      (2 ^ 32 < addr.toNat + bytes.length →
        t = { s with inputs := rest, mem := t.mem, openDraws := t.openDraws })

/-- The canonical form of memory is kept by every step, and holds after reset. -/
def Obligations.MemoryStaysCanonical : Prop :=
  State.reset.mem.wf = true ∧
  ∀ s t : State, s.mem.wf = true → step s = .next t → t.mem.wf = true

/-- 10_state.md R49, 60_exceptions.md R205: the fault mark, once set, is never cleared or changed by any
step. -/
def Obligations.FaultMarkNeverCleared : Prop :=
  ∀ (s t : State) (r : FaultReason), s.faultMark = some r → step s = .next t → t.faultMark = some r

/-- 60_exceptions.md R205: a step of the opcode table that raises a fault changes no register. -/
def Obligations.FaultingStepChangesNoRegister : Prop :=
  ∀ (i : Instr) (s t : State), exec i s = .next t → t.faultMark ≠ s.faultMark →
    s.busy = false ∧ t = { s with faultMark := t.faultMark }

/-! ### Whole-machine rules -/

/-- The invariant holds at every launch. -/
def Obligations.InvariantHoldsAtLaunch : Prop :=
  Inv State.reset ∧ ∀ build mem contexts inputs, Inv (State.launch build mem contexts inputs)

/-- 41_event_fsm.md R150, 42_bus_engine.md R186: every step, of whatever agent, keeps the invariant. -/
def Obligations.EveryStepKeepsInvariant : Prop :=
  ∀ s t : State, Inv s → step s = .next t → Inv t

/-- 41_event_fsm.md R150 (a) to (e), of every state with the invariant: which transaction an event the FSM
services belongs to. After a fault nothing is said of the byte in memory (20_memory.md R68). -/
def Obligations.EventsBelongToTheTransaction : Prop :=
  ∀ s : State, Inv s → s.cursor.toNat ≤ s.length.toNat ∧
    (s.si = true →
      (s.stat = 0x18 ∨ s.stat = 0x20 → s.cursor = 0 ∧ s.busy = true) ∧
      (s.stat = 0x28 ∨ s.stat = 0x30 → s.busy = true ∧ s.cursor.toNat < s.length.toNat ∧
        (s.clean = true → s.mem.read (s.bufbase.toNat + s.cursor.toNat) = some s.dat)) ∧
      (s.stat = 0x08 → s.busy = true ∧ s.cursor = 0) ∧
      (s.stat = 0x38 → s.busy = true))

/-- 42_bus_engine.md R186: the engine invariants of every reachable state. -/
def Obligations.EngineInvariantsOfReachableStates : Prop :=
  ∀ s : State, s.Reachable →
    (s.owned = true ↔ s.last ≠ .noPhase) ∧
    (s.owned = true → s.busy = false → s.sto = true ∨ s.si = true) ∧
    (∀ d, engineSelect s.engineFlags d ≠ some .eRstart) ∧
    (∀ d, engineSelect s.engineFlags d ≠ some .eStoidle) ∧
    (∀ d, engineSelect s.engineFlags d = some (.eByte d) → s.busy = true)

/-- 10_state.md R30: SLA, BUFBASE and LENGTH change only in the XFER step that sets BUSY, a write of CMD with
CMD[3:0] = 2, which takes them from the staging registers; so they cannot change while BUSY = 1; and a new
request while BUSY = 1 is rejected, not queued. -/
def Obligations.ContextOwnership : Prop :=
  ∀ s t : State, step s = .next t →
    (t.sla ≠ s.sla ∨ t.bufbase ≠ s.bufbase ∨ t.length ≠ s.length →
      ∃ inp rest w, s.inputs = inp :: rest ∧ s.action inp = .run (.hostWrCmd w) ∧ w.toNat % 16 = 2 ∧
        s.busy = false ∧ t.busy = true ∧ t.cmdresp = true ∧ t.cursor = 0 ∧
        t.sla.toNat = 2 * s.argAddr.toNat ∧ t.bufbase = s.argBuf ∧ t.length = s.argLen) ∧
    (s.busy = true → t.sla = s.sla ∧ t.bufbase = s.bufbase ∧ t.length = s.length) ∧
    (s.busy = true → ∀ i : Instr, (i = .xfer ∨ ∃ w : Word, i = .hostWrCmd w ∧ w.toNat % 16 = 2) →
      exec i s = .next { s with cmdresp := false })

/-- 10_state.md R27, R28 and 41_event_fsm.md R141: BUSY is cleared and RESULT is written only together, in a
service step of a recognised code, with RESULT the sentinel on address NACK and the new CURSOR otherwise. -/
def Obligations.OnlyTerminalStepsEndATransaction : Prop :=
  ∀ s t : State, step s = .next t →
    (t.result ≠ s.result ∨ (s.busy = true ∧ t.busy = false)) →
    (∃ rest, s.inputs = .service :: rest) ∧ s.si = true ∧ s.irqEn = true ∧ t.busy = false ∧
    t.si = false ∧
    (s.stat = 0x18 ∨ s.stat = 0x20 ∨ s.stat = 0x28 ∨ s.stat = 0x30 ∨ s.stat = 0x38) ∧
    (s.stat = 0x20 → t.result = 0xFFFFFFFF) ∧ (s.stat ≠ 0x20 → t.result = t.cursor) ∧
    (s.stat ≠ 0x38 → t.sto = true)

/-- 10_state.md R26, R31: while BUSY = 1 only the FSM's turn changes CURSOR, and it goes up by one. -/
def Obligations.CursorMovesOnlyByService : Prop :=
  ∀ s t : State, Inv s → s.busy = true → step s = .next t → t.cursor ≠ s.cursor →
    (∃ rest, s.inputs = .service :: rest) ∧ t.cursor.toNat = s.cursor.toNat + 1 ∧
    (s.stat = 0x28 ∨ (s.stat = 0x30 ∧ s.build.ignoreDataNack = true))

/-- 10_state.md R40, R41, R44: no step clears EN or IRQ_EN, and none changes CFG or another build
parameter. -/
def Obligations.EnablesAndBuildAreKept : Prop :=
  ∀ s t : State, step s = .next t →
    (s.en = true → t.en = true) ∧ (s.irqEn = true → t.irqEn = true) ∧ t.build = s.build ∧
    t.cfgWord = s.cfgWord

/-- 41_event_fsm.md R149, 60_exceptions.md R207 (a): once an unrecognised code is pending in a transaction,
the transaction hangs: no run, of any agents, moves it. -/
def Obligations.UnrecognisedCodeHangs : Prop :=
  ∀ (k : Nat) (s t : State), s.busy = true → s.si = true → Config.recognised s.stat = false →
    Host.Core.run Sys2Proof.core k s = .next t →
    t.busy = true ∧ t.si = true ∧ t.stat = s.stat ∧ t.cursor = s.cursor ∧ t.result = s.result ∧
    t.sta = s.sta ∧ t.sto = s.sto ∧ t.dat = s.dat ∧ t.owned = s.owned ∧ t.last = s.last ∧
    t.wire = s.wire

/-- 40_host_interface.md R120, 60_exceptions.md R207 (b): an XFER before INIT is accepted and then hangs,
whatever any agent does. -/
def Obligations.XferBeforeInitHangs : Prop :=
  ∀ (k : Nat) (s u t : State), s.busy = false → s.en = false → s.irqEn = false →
    s.argLen.toNat ≠ 4294967295 → s.argBuf.toNat + s.argLen.toNat ≤ 2 ^ 32 →
    exec .xfer s = .next u → Host.Core.run Sys2Proof.core k u = .next t →
    u.busy = true ∧ u.cmdresp = true ∧ t.busy = true ∧ t.en = false ∧ t.irqEn = false ∧
    t.wire = s.wire ∧ t.result = s.result

/-! ### Transfers -/

/-- 41_event_fsm.md R153, 20_memory.md R64 and 95_test_vectors.md W1, W3, W5: with every address and data byte
acknowledged, or under the ignore policy with any answers to the data bytes, a transfer of LENGTH bytes sends
SLA and then the buffer's bytes in increasing index order, ends with RESULT = LENGTH and raises stop; LENGTH
may be 0. -/
def Obligations.AcknowledgedTransferReturnsLength : Prop :=
  ∀ (s : State) (data : List Draw) (bytes : List Byte) (rest : List Input), ReadyToStart s →
    data.length = s.length.toNat → bytes.length = s.length.toNat →
    (∀ i, i < s.length.toNat → s.bufferByte i = bytes[i]?) →
    (∀ d ∈ data, d = .ack ∨ (d = .nack ∧ s.build.ignoreDataNack = true)) →
    s.inputs = scriptOf (.ack :: .ack :: data) ++ rest →
    ∃ t, Host.Core.run Sys2Proof.core (2 * (s.length.toNat + 2)) s = .next t ∧
      t.busy = false ∧ t.result = s.length ∧ t.cursor = s.length ∧ t.sto = true ∧ t.si = false ∧
      t.inputs = rest ∧ t.faultMark = s.faultMark ∧
      t.wire = (List.zipWith BusEvent.byte bytes data).reverse ++
        .byte s.sla .ack :: .start :: s.wire

/-- 41_event_fsm.md R144, R153 and 95_test_vectors.md W2: when the address is not acknowledged, the transfer
ends with the sentinel after one start and one byte, and no data byte is sent. -/
def Obligations.AddressNackReturnsSentinel : Prop :=
  ∀ (s : State) (rest : List Input), ReadyToStart s → s.inputs = scriptOf [.ack, .nack] ++ rest →
    ∃ t, Host.Core.run Sys2Proof.core 4 s = .next t ∧ t.busy = false ∧ t.result = 0xFFFFFFFF ∧
      t.cursor = 0 ∧ t.sto = true ∧ t.inputs = rest ∧
      t.wire = .byte s.sla .nack :: .start :: s.wire

/-- 41_event_fsm.md R146, R153 and 95_test_vectors.md W3: under the strict policy a NACK of data byte k ends
the transfer with RESULT = k. -/
def Obligations.StrictNackReturnsIndex : Prop :=
  ∀ (s : State) (k : Nat) (rest : List Input), ReadyToStart s → s.build.ignoreDataNack = false →
    k < s.length.toNat → s.bufferAdmitted (k + 1) →
    s.inputs = scriptOf (.ack :: .ack :: (List.replicate k .ack ++ [.nack])) ++ rest →
    ∃ t, Host.Core.run Sys2Proof.core (2 * (k + 3)) s = .next t ∧ t.busy = false ∧
      t.result.toNat = k ∧ t.cursor.toNat = k ∧ t.sto = true ∧ t.inputs = rest

/-- 42_bus_engine.md R172, 70_reset_and_hazards.md R238: a start asked for while the previous stop is pending
comes after that stop, as two engine steps. -/
def Obligations.PendingStopComesBeforeStart : Prop :=
  ∀ (s : State) (d : Draw) (rest : List Input), s.en = true → s.si = false → s.sto = true →
    s.sta = true → s.owned = true → s.inputs = .engine d :: .engine .ack :: rest →
    Host.Core.run Sys2Proof.core 2 s =
      .next { s with sto := false, owned := true, last := .start, stat := 0x08, si := true,
                     wire := .start :: .stop :: s.wire, inputs := rest }

/-- 40_host_interface.md R117, R125: a host context that runs `transfer` while a transaction is in flight is
refused: it ends with 0, and the transaction's context, flags and bus are untouched. -/
def Obligations.RefusedTransferReturnsZero : Prop :=
  ∀ (s : State) (a b n : Word) (vars : List Word) (rest : List Input), s.busy = true →
    s.contexts = [{ prog := opsTransfer 0 1 a b n, vars := vars }] →
    s.inputs = .turn 0 :: .turn 0 :: .turn 0 :: .turn 0 :: .turn 0 :: rest →
    ∃ t vars', Host.Core.run Sys2Proof.core 5 s = .next t ∧
      t.contexts = [{ prog := [], vars := vars' }] ∧ vars'[1]? = some 0 ∧
      t.argAddr.toNat = a.toNat % 128 ∧
      t = { s with argAddr := t.argAddr, argBuf := b, argLen := n, cmdresp := false,
                   rdData := t.rdData, contexts := t.contexts, inputs := rest }
end

