-- ==== Sys2Proof/Laws/Decode.lean ====
section
/-!
SUPPORT. Small laws of the decoder: the accesses of `rd` and `wr` decode to their rows, and CMD[31:4] is not
looked at.
-/
namespace Sys2Proof

theorem offset_reg (reg : RegIndex) :
    (reg ++ (0 : BitVec 2) : BitVec 7).extractLsb' 2 5 = reg ∧
    (reg ++ (0 : BitVec 2) : BitVec 7).extractLsb' 0 2 = 0 := by
  revert reg
  decide

/-- `wr REG, v` is the write row REG selects. -/
theorem decodeAccess_wr (reg : RegIndex) (v : Word) :
    decodeAccess (Access.wr reg v) = .ok (decodeWrite reg v) := by
  have h1 : (Access.wr reg v).reg = reg := (offset_reg reg).1
  have h2 : (Access.wr reg v).offset.extractLsb' 0 2 = 0 := (offset_reg reg).2
  simp only [decodeAccess, h1, h2]
  rfl

/-- `rd r, REG` is HOST_RD of REG. -/
theorem decodeAccess_rd (reg : RegIndex) : decodeAccess (Access.rd reg) = .ok (.hostRd reg) := by
  have h1 : (Access.rd reg).reg = reg := (offset_reg reg).1
  have h2 : (Access.rd reg).offset.extractLsb' 0 2 = 0 := (offset_reg reg).2
  simp only [decodeAccess, h1, h2]
  rfl

/-- A write to a read-only or reserved word decodes to HOST_WR_IGN. -/
theorem decodeWrite_ignored {reg : RegIndex} (h : regIgnored reg = true) (v : Word) :
    decodeWrite reg v = .hostWrIgn reg v := by
  have key : ∀ r : RegIndex, regIgnored r = true →
      r ≠ 0x00 ∧ r ≠ 0x10 ∧ r ≠ 0x11 ∧ r ≠ 0x12 ∧ r ≠ 0x13 ∧ r ≠ 0x14 := by decide
  obtain ⟨h0, h1, h2, h3, h4, h5⟩ := key reg h
  unfold decodeWrite
  rw [if_neg h0, if_neg h1, if_neg h2, if_neg h3, if_neg h4, if_neg h5]

/-- The decoder rejects exactly the accesses that are not 32-bit aligned words (20_memory.md R62). -/
theorem decodeAccess_error_iff (a : Access) : (∃ e, decodeAccess a = .error e) ↔ a.wf = false := by
  unfold decodeAccess Access.wf
  by_cases h1 : a.size = 4 <;> by_cases h2 : a.offset.extractLsb' 0 2 = 0 <;>
    cases a.write <;> simp_all

theorem commandOp_toNat (w : Word) : (commandOp w).toNat = w.toNat % 16 := by
  simp [commandOp, BitVec.extractLsb'_toNat]

end Sys2Proof
end

