-- ==== Sys2Proof/Laws/State.lean ====
section
/-!
SUPPORT. What each named update of the state writes, and its frame: every other field is unchanged. Each
frame is one conjunction, which simp reads as one rewriting rule per field.
-/
namespace Sys2Proof.Machine

@[simp] theorem State.raiseFault_faultMark (s : State) (r : FaultReason) : (s.raiseFault r).faultMark = s.faultMark.or (some r) := rfl

@[simp] theorem State.raiseFault_frame (s : State) (r : FaultReason) :
    (s.raiseFault r).sla = s.sla ∧ (s.raiseFault r).bufbase = s.bufbase ∧
    (s.raiseFault r).length = s.length ∧ (s.raiseFault r).cursor = s.cursor ∧
    (s.raiseFault r).busy = s.busy ∧ (s.raiseFault r).result = s.result ∧
    (s.raiseFault r).cmdresp = s.cmdresp ∧ (s.raiseFault r).dat = s.dat ∧
    (s.raiseFault r).stat = s.stat ∧ (s.raiseFault r).sta = s.sta ∧ (s.raiseFault r).sto = s.sto ∧
    (s.raiseFault r).si = s.si ∧ (s.raiseFault r).aa = s.aa ∧ (s.raiseFault r).en = s.en ∧
    (s.raiseFault r).irqEn = s.irqEn ∧ (s.raiseFault r).scll = s.scll ∧
    (s.raiseFault r).sclh = s.sclh ∧ (s.raiseFault r).prio = s.prio ∧
    (s.raiseFault r).owned = s.owned ∧ (s.raiseFault r).last = s.last ∧
    (s.raiseFault r).argFreq = s.argFreq ∧ (s.raiseFault r).argPrio = s.argPrio ∧
    (s.raiseFault r).argAddr = s.argAddr ∧ (s.raiseFault r).argBuf = s.argBuf ∧
    (s.raiseFault r).argLen = s.argLen ∧ (s.raiseFault r).build = s.build ∧
    (s.raiseFault r).mem = s.mem ∧ (s.raiseFault r).contexts = s.contexts ∧
    (s.raiseFault r).inputs = s.inputs ∧ (s.raiseFault r).openDraws = s.openDraws ∧
    (s.raiseFault r).rdData = s.rdData ∧
    (s.raiseFault r).wire = s.wire := by
  refine ⟨rfl, rfl, rfl, rfl, rfl, rfl, rfl, rfl, rfl, rfl, rfl, rfl, rfl, rfl, rfl, rfl, rfl, rfl, rfl, rfl, rfl, rfl, rfl, rfl, rfl, rfl, rfl, rfl, rfl, rfl, rfl, rfl⟩

@[simp] theorem State.disturb_mem (s : State) (a n : Nat) :
    (s.disturb a n).mem = s.mem.disturb a s.openDraws (bytesInSpace a n) := rfl

@[simp] theorem State.disturb_frame (s : State) (a n : Nat) :
    (s.disturb a n).sla = s.sla ∧ (s.disturb a n).bufbase = s.bufbase ∧
    (s.disturb a n).length = s.length ∧ (s.disturb a n).cursor = s.cursor ∧
    (s.disturb a n).busy = s.busy ∧ (s.disturb a n).result = s.result ∧
    (s.disturb a n).cmdresp = s.cmdresp ∧ (s.disturb a n).dat = s.dat ∧
    (s.disturb a n).stat = s.stat ∧ (s.disturb a n).sta = s.sta ∧ (s.disturb a n).sto = s.sto ∧
    (s.disturb a n).si = s.si ∧ (s.disturb a n).aa = s.aa ∧ (s.disturb a n).en = s.en ∧
    (s.disturb a n).irqEn = s.irqEn ∧ (s.disturb a n).scll = s.scll ∧
    (s.disturb a n).sclh = s.sclh ∧ (s.disturb a n).prio = s.prio ∧
    (s.disturb a n).owned = s.owned ∧ (s.disturb a n).last = s.last ∧
    (s.disturb a n).argFreq = s.argFreq ∧ (s.disturb a n).argPrio = s.argPrio ∧
    (s.disturb a n).argAddr = s.argAddr ∧ (s.disturb a n).argBuf = s.argBuf ∧
    (s.disturb a n).argLen = s.argLen ∧ (s.disturb a n).faultMark = s.faultMark ∧
    (s.disturb a n).build = s.build ∧ (s.disturb a n).contexts = s.contexts ∧
    (s.disturb a n).inputs = s.inputs ∧ (s.disturb a n).rdData = s.rdData ∧
    (s.disturb a n).wire = s.wire := by
  refine ⟨rfl, rfl, rfl, rfl, rfl, rfl, rfl, rfl, rfl, rfl, rfl, rfl, rfl, rfl, rfl, rfl, rfl, rfl, rfl, rfl, rfl, rfl, rfl, rfl, rfl, rfl, rfl, rfl, rfl, rfl, rfl⟩

@[simp] theorem State.hazardWrite_faultMark (s : State) (a n : Nat) :
    (s.hazardWrite a n).faultMark = s.faultMark.or (some .bufHazard) := rfl

@[simp] theorem State.hazardWrite_mem (s : State) (a n : Nat) :
    (s.hazardWrite a n).mem = s.mem.disturb a s.openDraws (bytesInSpace a n) := rfl

@[simp] theorem State.hazardWrite_frame (s : State) (a n : Nat) :
    (s.hazardWrite a n).sla = s.sla ∧ (s.hazardWrite a n).bufbase = s.bufbase ∧
    (s.hazardWrite a n).length = s.length ∧ (s.hazardWrite a n).cursor = s.cursor ∧
    (s.hazardWrite a n).busy = s.busy ∧ (s.hazardWrite a n).result = s.result ∧
    (s.hazardWrite a n).cmdresp = s.cmdresp ∧ (s.hazardWrite a n).dat = s.dat ∧
    (s.hazardWrite a n).stat = s.stat ∧ (s.hazardWrite a n).sta = s.sta ∧
    (s.hazardWrite a n).sto = s.sto ∧ (s.hazardWrite a n).si = s.si ∧
    (s.hazardWrite a n).aa = s.aa ∧ (s.hazardWrite a n).en = s.en ∧
    (s.hazardWrite a n).irqEn = s.irqEn ∧ (s.hazardWrite a n).scll = s.scll ∧
    (s.hazardWrite a n).sclh = s.sclh ∧ (s.hazardWrite a n).prio = s.prio ∧
    (s.hazardWrite a n).owned = s.owned ∧ (s.hazardWrite a n).last = s.last ∧
    (s.hazardWrite a n).argFreq = s.argFreq ∧ (s.hazardWrite a n).argPrio = s.argPrio ∧
    (s.hazardWrite a n).argAddr = s.argAddr ∧ (s.hazardWrite a n).argBuf = s.argBuf ∧
    (s.hazardWrite a n).argLen = s.argLen ∧ (s.hazardWrite a n).build = s.build ∧
    (s.hazardWrite a n).contexts = s.contexts ∧ (s.hazardWrite a n).inputs = s.inputs ∧
    (s.hazardWrite a n).rdData = s.rdData ∧ (s.hazardWrite a n).wire = s.wire := by
  refine ⟨rfl, rfl, rfl, rfl, rfl, rfl, rfl, rfl, rfl, rfl, rfl, rfl, rfl, rfl, rfl, rfl, rfl, rfl, rfl, rfl, rfl, rfl, rfl, rfl, rfl, rfl, rfl, rfl, rfl, rfl⟩

@[simp] theorem State.raiseEvent_stat (s : State) (c : Byte) : (s.raiseEvent c).stat = c := rfl

@[simp] theorem State.raiseEvent_si (s : State) (c : Byte) : (s.raiseEvent c).si = true := rfl

@[simp] theorem State.raiseEvent_frame (s : State) (c : Byte) :
    (s.raiseEvent c).sla = s.sla ∧ (s.raiseEvent c).bufbase = s.bufbase ∧
    (s.raiseEvent c).length = s.length ∧ (s.raiseEvent c).cursor = s.cursor ∧
    (s.raiseEvent c).busy = s.busy ∧ (s.raiseEvent c).result = s.result ∧
    (s.raiseEvent c).cmdresp = s.cmdresp ∧ (s.raiseEvent c).dat = s.dat ∧
    (s.raiseEvent c).sta = s.sta ∧ (s.raiseEvent c).sto = s.sto ∧ (s.raiseEvent c).aa = s.aa ∧
    (s.raiseEvent c).en = s.en ∧ (s.raiseEvent c).irqEn = s.irqEn ∧
    (s.raiseEvent c).scll = s.scll ∧ (s.raiseEvent c).sclh = s.sclh ∧
    (s.raiseEvent c).prio = s.prio ∧ (s.raiseEvent c).owned = s.owned ∧
    (s.raiseEvent c).last = s.last ∧ (s.raiseEvent c).argFreq = s.argFreq ∧
    (s.raiseEvent c).argPrio = s.argPrio ∧ (s.raiseEvent c).argAddr = s.argAddr ∧
    (s.raiseEvent c).argBuf = s.argBuf ∧ (s.raiseEvent c).argLen = s.argLen ∧
    (s.raiseEvent c).faultMark = s.faultMark ∧ (s.raiseEvent c).build = s.build ∧
    (s.raiseEvent c).mem = s.mem ∧ (s.raiseEvent c).contexts = s.contexts ∧
    (s.raiseEvent c).inputs = s.inputs ∧ (s.raiseEvent c).openDraws = s.openDraws ∧
    (s.raiseEvent c).rdData = s.rdData ∧
    (s.raiseEvent c).wire = s.wire := by
  refine ⟨rfl, rfl, rfl, rfl, rfl, rfl, rfl, rfl, rfl, rfl, rfl, rfl, rfl, rfl, rfl, rfl, rfl, rfl, rfl, rfl, rfl, rfl, rfl, rfl, rfl, rfl, rfl, rfl, rfl, rfl, rfl⟩

@[simp] theorem State.clearEvent_si (s : State) : (s.clearEvent).si = false := rfl

@[simp] theorem State.clearEvent_frame (s : State) :
    (s.clearEvent).sla = s.sla ∧ (s.clearEvent).bufbase = s.bufbase ∧
    (s.clearEvent).length = s.length ∧ (s.clearEvent).cursor = s.cursor ∧
    (s.clearEvent).busy = s.busy ∧ (s.clearEvent).result = s.result ∧
    (s.clearEvent).cmdresp = s.cmdresp ∧ (s.clearEvent).dat = s.dat ∧
    (s.clearEvent).stat = s.stat ∧ (s.clearEvent).sta = s.sta ∧ (s.clearEvent).sto = s.sto ∧
    (s.clearEvent).aa = s.aa ∧ (s.clearEvent).en = s.en ∧ (s.clearEvent).irqEn = s.irqEn ∧
    (s.clearEvent).scll = s.scll ∧ (s.clearEvent).sclh = s.sclh ∧ (s.clearEvent).prio = s.prio ∧
    (s.clearEvent).owned = s.owned ∧ (s.clearEvent).last = s.last ∧
    (s.clearEvent).argFreq = s.argFreq ∧ (s.clearEvent).argPrio = s.argPrio ∧
    (s.clearEvent).argAddr = s.argAddr ∧ (s.clearEvent).argBuf = s.argBuf ∧
    (s.clearEvent).argLen = s.argLen ∧ (s.clearEvent).faultMark = s.faultMark ∧
    (s.clearEvent).build = s.build ∧ (s.clearEvent).mem = s.mem ∧
    (s.clearEvent).contexts = s.contexts ∧ (s.clearEvent).inputs = s.inputs ∧
    (s.clearEvent).openDraws = s.openDraws ∧
    (s.clearEvent).rdData = s.rdData ∧ (s.clearEvent).wire = s.wire := by
  refine ⟨rfl, rfl, rfl, rfl, rfl, rfl, rfl, rfl, rfl, rfl, rfl, rfl, rfl, rfl, rfl, rfl, rfl, rfl, rfl, rfl, rfl, rfl, rfl, rfl, rfl, rfl, rfl, rfl, rfl, rfl, rfl, rfl⟩

@[simp] theorem State.endTransaction_result (s : State) (r : Word) : (s.endTransaction r).result = r := rfl

@[simp] theorem State.endTransaction_busy (s : State) (r : Word) : (s.endTransaction r).busy = false := rfl

@[simp] theorem State.endTransaction_frame (s : State) (r : Word) :
    (s.endTransaction r).sla = s.sla ∧ (s.endTransaction r).bufbase = s.bufbase ∧
    (s.endTransaction r).length = s.length ∧ (s.endTransaction r).cursor = s.cursor ∧
    (s.endTransaction r).cmdresp = s.cmdresp ∧ (s.endTransaction r).dat = s.dat ∧
    (s.endTransaction r).stat = s.stat ∧ (s.endTransaction r).sta = s.sta ∧
    (s.endTransaction r).sto = s.sto ∧ (s.endTransaction r).si = s.si ∧
    (s.endTransaction r).aa = s.aa ∧ (s.endTransaction r).en = s.en ∧
    (s.endTransaction r).irqEn = s.irqEn ∧ (s.endTransaction r).scll = s.scll ∧
    (s.endTransaction r).sclh = s.sclh ∧ (s.endTransaction r).prio = s.prio ∧
    (s.endTransaction r).owned = s.owned ∧ (s.endTransaction r).last = s.last ∧
    (s.endTransaction r).argFreq = s.argFreq ∧ (s.endTransaction r).argPrio = s.argPrio ∧
    (s.endTransaction r).argAddr = s.argAddr ∧ (s.endTransaction r).argBuf = s.argBuf ∧
    (s.endTransaction r).argLen = s.argLen ∧ (s.endTransaction r).faultMark = s.faultMark ∧
    (s.endTransaction r).build = s.build ∧ (s.endTransaction r).mem = s.mem ∧
    (s.endTransaction r).contexts = s.contexts ∧ (s.endTransaction r).inputs = s.inputs ∧
    (s.endTransaction r).openDraws = s.openDraws ∧
    (s.endTransaction r).rdData = s.rdData ∧ (s.endTransaction r).wire = s.wire := by
  refine ⟨rfl, rfl, rfl, rfl, rfl, rfl, rfl, rfl, rfl, rfl, rfl, rfl, rfl, rfl, rfl, rfl, rfl, rfl, rfl, rfl, rfl, rfl, rfl, rfl, rfl, rfl, rfl, rfl, rfl, rfl, rfl⟩

@[simp] theorem State.raiseStop_sto (s : State) : (s.raiseStop).sto = true := rfl

@[simp] theorem State.raiseStop_frame (s : State) :
    (s.raiseStop).sla = s.sla ∧ (s.raiseStop).bufbase = s.bufbase ∧
    (s.raiseStop).length = s.length ∧ (s.raiseStop).cursor = s.cursor ∧
    (s.raiseStop).busy = s.busy ∧ (s.raiseStop).result = s.result ∧
    (s.raiseStop).cmdresp = s.cmdresp ∧ (s.raiseStop).dat = s.dat ∧ (s.raiseStop).stat = s.stat ∧
    (s.raiseStop).sta = s.sta ∧ (s.raiseStop).si = s.si ∧ (s.raiseStop).aa = s.aa ∧
    (s.raiseStop).en = s.en ∧ (s.raiseStop).irqEn = s.irqEn ∧ (s.raiseStop).scll = s.scll ∧
    (s.raiseStop).sclh = s.sclh ∧ (s.raiseStop).prio = s.prio ∧ (s.raiseStop).owned = s.owned ∧
    (s.raiseStop).last = s.last ∧ (s.raiseStop).argFreq = s.argFreq ∧
    (s.raiseStop).argPrio = s.argPrio ∧ (s.raiseStop).argAddr = s.argAddr ∧
    (s.raiseStop).argBuf = s.argBuf ∧ (s.raiseStop).argLen = s.argLen ∧
    (s.raiseStop).faultMark = s.faultMark ∧ (s.raiseStop).build = s.build ∧
    (s.raiseStop).mem = s.mem ∧ (s.raiseStop).contexts = s.contexts ∧
    (s.raiseStop).inputs = s.inputs ∧ (s.raiseStop).openDraws = s.openDraws ∧
    (s.raiseStop).rdData = s.rdData ∧
    (s.raiseStop).wire = s.wire := by
  refine ⟨rfl, rfl, rfl, rfl, rfl, rfl, rfl, rfl, rfl, rfl, rfl, rfl, rfl, rfl, rfl, rfl, rfl, rfl, rfl, rfl, rfl, rfl, rfl, rfl, rfl, rfl, rfl, rfl, rfl, rfl, rfl, rfl⟩

@[simp] theorem State.emit_dat (s : State) (b : Byte) : (s.emit b).dat = b := rfl

@[simp] theorem State.emit_frame (s : State) (b : Byte) :
    (s.emit b).sla = s.sla ∧ (s.emit b).bufbase = s.bufbase ∧ (s.emit b).length = s.length ∧
    (s.emit b).cursor = s.cursor ∧ (s.emit b).busy = s.busy ∧ (s.emit b).result = s.result ∧
    (s.emit b).cmdresp = s.cmdresp ∧ (s.emit b).stat = s.stat ∧ (s.emit b).sta = s.sta ∧
    (s.emit b).sto = s.sto ∧ (s.emit b).si = s.si ∧ (s.emit b).aa = s.aa ∧ (s.emit b).en = s.en ∧
    (s.emit b).irqEn = s.irqEn ∧ (s.emit b).scll = s.scll ∧ (s.emit b).sclh = s.sclh ∧
    (s.emit b).prio = s.prio ∧ (s.emit b).owned = s.owned ∧ (s.emit b).last = s.last ∧
    (s.emit b).argFreq = s.argFreq ∧ (s.emit b).argPrio = s.argPrio ∧
    (s.emit b).argAddr = s.argAddr ∧ (s.emit b).argBuf = s.argBuf ∧ (s.emit b).argLen = s.argLen ∧
    (s.emit b).faultMark = s.faultMark ∧ (s.emit b).build = s.build ∧ (s.emit b).mem = s.mem ∧
    (s.emit b).contexts = s.contexts ∧ (s.emit b).inputs = s.inputs ∧
    (s.emit b).openDraws = s.openDraws ∧
    (s.emit b).rdData = s.rdData ∧ (s.emit b).wire = s.wire := by
  refine ⟨rfl, rfl, rfl, rfl, rfl, rfl, rfl, rfl, rfl, rfl, rfl, rfl, rfl, rfl, rfl, rfl, rfl, rfl, rfl, rfl, rfl, rfl, rfl, rfl, rfl, rfl, rfl, rfl, rfl, rfl, rfl, rfl⟩

@[simp] theorem State.respond_cmdresp (s : State) (b : Bool) : (s.respond b).cmdresp = b := rfl

@[simp] theorem State.respond_frame (s : State) (b : Bool) :
    (s.respond b).sla = s.sla ∧ (s.respond b).bufbase = s.bufbase ∧
    (s.respond b).length = s.length ∧ (s.respond b).cursor = s.cursor ∧
    (s.respond b).busy = s.busy ∧ (s.respond b).result = s.result ∧ (s.respond b).dat = s.dat ∧
    (s.respond b).stat = s.stat ∧ (s.respond b).sta = s.sta ∧ (s.respond b).sto = s.sto ∧
    (s.respond b).si = s.si ∧ (s.respond b).aa = s.aa ∧ (s.respond b).en = s.en ∧
    (s.respond b).irqEn = s.irqEn ∧ (s.respond b).scll = s.scll ∧ (s.respond b).sclh = s.sclh ∧
    (s.respond b).prio = s.prio ∧ (s.respond b).owned = s.owned ∧ (s.respond b).last = s.last ∧
    (s.respond b).argFreq = s.argFreq ∧ (s.respond b).argPrio = s.argPrio ∧
    (s.respond b).argAddr = s.argAddr ∧ (s.respond b).argBuf = s.argBuf ∧
    (s.respond b).argLen = s.argLen ∧ (s.respond b).faultMark = s.faultMark ∧
    (s.respond b).build = s.build ∧ (s.respond b).mem = s.mem ∧
    (s.respond b).contexts = s.contexts ∧ (s.respond b).inputs = s.inputs ∧
    (s.respond b).openDraws = s.openDraws ∧
    (s.respond b).rdData = s.rdData ∧ (s.respond b).wire = s.wire := by
  refine ⟨rfl, rfl, rfl, rfl, rfl, rfl, rfl, rfl, rfl, rfl, rfl, rfl, rfl, rfl, rfl, rfl, rfl, rfl, rfl, rfl, rfl, rfl, rfl, rfl, rfl, rfl, rfl, rfl, rfl, rfl, rfl, rfl⟩

@[simp] theorem State.logBus_wire (s : State) (e : BusEvent) : (s.logBus e).wire = e :: s.wire := rfl

@[simp] theorem State.logBus_frame (s : State) (e : BusEvent) :
    (s.logBus e).sla = s.sla ∧ (s.logBus e).bufbase = s.bufbase ∧ (s.logBus e).length = s.length ∧
    (s.logBus e).cursor = s.cursor ∧ (s.logBus e).busy = s.busy ∧ (s.logBus e).result = s.result ∧
    (s.logBus e).cmdresp = s.cmdresp ∧ (s.logBus e).dat = s.dat ∧ (s.logBus e).stat = s.stat ∧
    (s.logBus e).sta = s.sta ∧ (s.logBus e).sto = s.sto ∧ (s.logBus e).si = s.si ∧
    (s.logBus e).aa = s.aa ∧ (s.logBus e).en = s.en ∧ (s.logBus e).irqEn = s.irqEn ∧
    (s.logBus e).scll = s.scll ∧ (s.logBus e).sclh = s.sclh ∧ (s.logBus e).prio = s.prio ∧
    (s.logBus e).owned = s.owned ∧ (s.logBus e).last = s.last ∧ (s.logBus e).argFreq = s.argFreq ∧
    (s.logBus e).argPrio = s.argPrio ∧ (s.logBus e).argAddr = s.argAddr ∧
    (s.logBus e).argBuf = s.argBuf ∧ (s.logBus e).argLen = s.argLen ∧
    (s.logBus e).faultMark = s.faultMark ∧ (s.logBus e).build = s.build ∧
    (s.logBus e).mem = s.mem ∧ (s.logBus e).contexts = s.contexts ∧
    (s.logBus e).inputs = s.inputs ∧ (s.logBus e).openDraws = s.openDraws ∧
    (s.logBus e).rdData = s.rdData := by
  refine ⟨rfl, rfl, rfl, rfl, rfl, rfl, rfl, rfl, rfl, rfl, rfl, rfl, rfl, rfl, rfl, rfl, rfl, rfl, rfl, rfl, rfl, rfl, rfl, rfl, rfl, rfl, rfl, rfl, rfl, rfl, rfl, rfl⟩

end Sys2Proof.Machine
end

