-- ==== Sys2Proof/Laws/Ops.lean ====
section
/-!
SUPPORT. Laws of the shared operations: host memory (read after write, the canonical form), the guard
combinator, and the operand functions.
-/
namespace Sys2Proof.Machine

/-! ### Host memory -/

theorem Memory.read_write_same (m : Memory) (a : Nat) (b : Byte) : (m.write a b).read a = some b := by
  induction m with
  | nil => simp [Memory.write, Memory.read]
  | cons e rest ih =>
    obtain ⟨k, v⟩ := e
    simp only [Memory.write]
    split
    · simp [Memory.read]
    · split
      · simp [Memory.read]
      · rename_i h
        simp [Memory.read, Ne.symm h, ih]

theorem Memory.read_write_other (m : Memory) {a a' : Nat} (b : Byte) (h : a' ≠ a) :
    (m.write a b).read a' = m.read a' := by
  induction m with
  | nil => simp [Memory.write, Memory.read, Ne.symm h]
  | cons e rest ih =>
    obtain ⟨k, v⟩ := e
    simp only [Memory.write]
    split
    · simp [Memory.read, Ne.symm h]
    · split
      · rename_i hk
        subst hk
        simp [Memory.read, Ne.symm h]
      · simp [Memory.read, ih]

/-- The canonical form said for a list with a first entry. -/
theorem Memory.wf_cons (k : Nat) (v : Byte) (m : Memory) :
    Memory.wf ((k, v) :: m) = true ↔
      k < 4294967296 ∧ (∀ e ∈ m, k < e.1) ∧ m.wf = true := by
  induction m generalizing k v with
  | nil => simp [Memory.wf]
  | cons e rest ih =>
    obtain ⟨k', v'⟩ := e
    rw [Memory.wf, Bool.and_eq_true, decide_eq_true_eq, ih k' v']
    constructor
    · rintro ⟨h, h1, h2, h3⟩
      refine ⟨by omega, ?_, h1, h2, h3⟩
      intro e he
      rcases List.mem_cons.mp he with rfl | he
      · exact h
      · exact lt_trans h (h2 e he)
    · rintro ⟨_, h2, h3⟩
      exact ⟨h2 (k', v') List.mem_cons_self, h3⟩

theorem Memory.mem_write {m : Memory} {a : Nat} {b : Byte} {e : Host.Cell} (h : e ∈ m.write a b) :
    e = (a, b) ∨ e ∈ m := by
  induction m with
  | nil => simpa [Memory.write] using h
  | cons e' rest ih =>
    obtain ⟨k, v⟩ := e'
    simp only [Memory.write] at h
    split at h
    · simpa using h
    · split at h
      · rcases List.mem_cons.mp h with h | h
        · exact .inl h
        · exact .inr (List.mem_cons_of_mem _ h)
      · rcases List.mem_cons.mp h with h | h
        · exact .inr (h ▸ List.mem_cons_self)
        · rcases ih h with h | h
          · exact .inl h
          · exact .inr (List.mem_cons_of_mem _ h)

/-- Writing a byte of the address space keeps the canonical form. -/
theorem Memory.write_wf {m : Memory} (h : m.wf = true) {a : Nat} (ha : a < 4294967296) (b : Byte) :
    (m.write a b).wf = true := by
  induction m with
  | nil => simpa [Memory.write, Memory.wf] using ha
  | cons e rest ih =>
    obtain ⟨k, v⟩ := e
    obtain ⟨hk, hlt, hr⟩ := (Memory.wf_cons k v rest).mp h
    simp only [Memory.write]
    split
    · rename_i hak
      refine (Memory.wf_cons a b _).mpr ⟨ha, ?_, h⟩
      intro e he
      rcases List.mem_cons.mp he with rfl | he
      · exact hak
      · exact lt_trans hak (hlt e he)
    · split
      · rename_i hak
        exact (Memory.wf_cons a b _).mpr ⟨ha, hak ▸ hlt, hr⟩
      · refine (Memory.wf_cons k v _).mpr ⟨hk, ?_, ih hr⟩
        intro e he
        rcases Memory.mem_write he with rfl | he
        · show k < a
          omega
        · exact hlt e he

/-- Writing bytes of the address space keeps the canonical form. -/
theorem Memory.writeBytes_wf {m : Memory} (h : m.wf = true) {a : Nat} {bs : List Byte}
    (ha : a + bs.length ≤ 4294967296) : (m.writeBytes a bs).wf = true := by
  induction bs generalizing m a with
  | nil => exact h
  | cons b bs ih =>
    simp only [List.length_cons] at ha
    exact ih (Memory.write_wf h (by omega) b) (by omega)

theorem Memory.read_writeBytes_other (m : Memory) {a a' : Nat} (bs : List Byte)
    (h : a' < a ∨ a + bs.length ≤ a') : (m.writeBytes a bs).read a' = m.read a' := by
  induction bs generalizing m a with
  | nil => rfl
  | cons b bs ih =>
    simp only [List.length_cons] at h
    rw [Memory.writeBytes, ih _ (by omega), Memory.read_write_other _ _ (by omega)]

theorem Memory.read_writeBytes_inside (m : Memory) (a k : Nat) (bs : List Byte)
    (h : k < bs.length) : (m.writeBytes a bs).read (a + k) = bs[k]? := by
  induction bs generalizing m a k with
  | nil => simp at h
  | cons b bs ih =>
    cases k with
    | zero =>
      rw [Memory.writeBytes, Memory.read_writeBytes_other _ _ (by omega)]
      simpa using Memory.read_write_same m a b
    | succ k =>
      simp only [List.length_cons] at h
      have := ih (m.write a b) (a + 1) k (by omega)
      rw [Memory.writeBytes, show a + (k + 1) = a + 1 + k by omega, this]
      simp

/-- A byte outside the disturbed range reads as before. -/
theorem Memory.read_disturb_other (m : Memory) {a a' n size : Nat} (h : a' < a ∨ a + size ≤ a') :
    (m.disturb a n size).read a' = m.read a' := by
  induction size generalizing m a n with
  | zero => rfl
  | succ k ih =>
    rw [Memory.disturb, ih _ (by omega)]
    split
    · exact Memory.read_write_other _ _ (by omega)
    · rfl

/-- Disturbing bytes of the address space keeps the canonical form. -/
theorem Memory.disturb_wf {m : Memory} (h : m.wf = true) {a n size : Nat}
    (ha : a + size ≤ 4294967296) : (m.disturb a n size).wf = true := by
  induction size generalizing m a n with
  | zero => exact h
  | succ k ih =>
    refine ih ?_ (by omega)
    split
    · exact Memory.write_wf h (by omega) _
    · exact h

/-- No more than the written bytes, and none past the top of the address space. -/
theorem bytesInSpace_le {a n : Nat} (h : a ≤ 4294967296) :
    bytesInSpace a n ≤ n ∧ a + bytesInSpace a n ≤ 4294967296 := by
  unfold bytesInSpace
  omega

/-- A disturbing write leaves every byte outside it as it was. -/
theorem State.read_disturb_other (s : State) {a a' n : Nat} (ha : a ≤ 4294967296)
    (h : a' < a ∨ a + n ≤ a') : (s.disturb a n).mem.read a' = s.mem.read a' := by
  have := bytesInSpace_le (n := n) ha
  exact Memory.read_disturb_other _ (by omega)

/-- A disturbing write keeps the canonical form. -/
theorem State.disturb_wf {s : State} (h : s.mem.wf = true) {a n : Nat} (ha : a ≤ 4294967296) :
    (s.disturb a n).mem.wf = true :=
  Memory.disturb_wf h (bytesInSpace_le ha).2

/-! ### Guards -/

/-- A guarded step always answers a next state: its effect when the guard holds, else the state it began
in. -/
theorem State.takeWhen_next {s t u : State} {g : Bool} (h : s.takeWhen g t = .next u) :
    (g = true ∧ u = t) ∨ (g = false ∧ u = s) := by
  cases g <;> simp [State.takeWhen] at h <;> simp [h]

@[simp] theorem State.takeWhen_true (s t : State) : s.takeWhen true t = .next t := rfl
@[simp] theorem State.takeWhen_false (s t : State) : s.takeWhen false t = .next s := rfl

theorem State.servicing_iff (s : State) (c : Byte) :
    s.servicing c = true ↔ s.si = true ∧ s.irqEn = true ∧ s.stat = c := by
  simp [State.servicing, and_assoc]

/-! ### Operands -/

/-- Below its greatest value the advanced cursor is CURSOR + 1. -/
theorem State.nextCursor_toNat {s : State} (h : s.cursor.toNat < 4294967295) :
    s.nextCursor.toNat = s.cursor.toNat + 1 := by
  have : s.cursor ≠ 0xFFFFFFFF := by
    intro e
    rw [e] at h
    exact absurd h (by decide)
  rw [State.nextCursor, if_neg this, BitVec.toNat_add]
  simp
  omega

theorem State.portRead_some {s : State} {a : Nat} {b : Byte} :
    s.portRead a = some b ↔ a < 4294967296 ∧ s.mem.read a = some b := by
  simp [State.portRead]

/-- The direction bit of an SLA byte is 0. -/
theorem slaByte_dir (a : Addr7) : (slaByte a).getLsbD 0 = false := by
  have := BitVec.getLsbD_append (x := a) (y := (0 : BitVec 1)) (i := 0)
  exact this.trans rfl

theorem slaByte_toNat (a : Addr7) : (slaByte a).toNat = 2 * a.toNat := by
  have h : (slaByte a).toNat = a.toNat <<< 1 ||| (0 : BitVec 1).toNat := BitVec.toNat_append a 0
  rw [h, Nat.shiftLeft_eq]
  show a.toNat * 2 ^ 1 ||| 0 = 2 * a.toNat
  rw [Nat.or_zero]
  omega

/-- The ceiling of R116, as inequalities. -/
theorem divPeriod_spec {pclk freq : Nat} (h : 0 < freq) :
    pclk ≤ divPeriod pclk freq * freq ∧ divPeriod pclk freq * freq < pclk + freq := by
  unfold divPeriod
  have h1 := Nat.div_add_mod (pclk + freq - 1) freq
  have h2 := Nat.mod_lt (pclk + freq - 1) h
  have h3 := Nat.mul_comm freq ((pclk + freq - 1) / freq)
  omega

/-- The floor of R116, as inequalities. -/
theorem divLow_spec {pclk freq : Nat} (h : 0 < freq) :
    divLow pclk freq * (2 * freq) ≤ pclk ∧ pclk < (divLow pclk freq + 1) * (2 * freq) := by
  unfold divLow
  have h1 := Nat.div_add_mod pclk (2 * freq)
  have h2 := Nat.mod_lt pclk (show 0 < 2 * freq by omega)
  have h3 := Nat.mul_comm (2 * freq) (pclk / (2 * freq))
  have h4 := Nat.succ_mul (pclk / (2 * freq)) (2 * freq)
  constructor
  · omega
  · simp only [Nat.succ_eq_add_one] at h4
    omega

end Sys2Proof.Machine
end

