-- ==== Sys2Proof/Laws/Exec.lean ====
section
/-!
SUPPORT. What an instruction can do, said once: `Effect s i t` lists the effects of 40_host_interface.md,
41_event_fsm.md and 42_bus_engine.md with their guards, and `effect_of_exec` says that exec has no other.
-/
namespace Sys2Proof.Machine

/-- The instruction runs this command: it is the command or a CMD write that selects it. -/
def Runs (i cmd : Instr) : Prop := i = cmd ∨ ∃ w, i = .hostWrCmd w ∧ decodeCommand w = cmd

/-- The instruction is a command or the CMD write that runs one (40_host_interface.md R114). -/
def IsCommand : Instr → Bool
  | .init | .xfer | .cmdRsvd0 | .cmdRsvd3 | .cmdRsvd4to7 _ | .cmdRsvd8toF _ | .hostWrCmd _ => true
  | _ => false

theorem Runs.isCommand {i cmd : Instr} (h : Runs i cmd) (hc : IsCommand cmd = true) :
    IsCommand i = true := by
  rcases h with rfl | ⟨w, rfl, _⟩
  · exact hc
  · rfl

/-- The instruction services a data event that advances the cursor (41_event_fsm.md R145, R147). -/
def Advances (s : State) (i : Instr) : Prop :=
  (i = .svcDataAck ∧ s.stat = Config.dataAck) ∨
  (i = .svcDataNackIgnore ∧ s.stat = Config.dataNack ∧ s.build.ignoreDataNack = true)

/-- One effect of one instruction. -/
inductive Effect (s : State) : Instr → State → Prop where
  | skip (i : Instr) : Effect s i s
  | startSent : s.si = true → s.irqEn = true → s.stat = Config.startSent →
      Effect s .svcStartSent { s with dat := s.sla, sta := false, si := false }
  | addrEmit (b : Byte) : s.si = true → s.irqEn = true → s.stat = Config.addrAck →
      s.cursor < s.length → s.bufferByte 0 = some b →
      Effect s .svcAddrAck { s with dat := b, sta := false, si := false }
  | addrEnd : s.si = true → s.irqEn = true → s.stat = Config.addrAck → ¬ s.cursor < s.length →
      Effect s .svcAddrAck { s with sta := false, sto := true, result := s.cursor, busy := false,
                                    si := false }
  | addrNack : s.si = true → s.irqEn = true → s.stat = Config.addrNack →
      Effect s .svcAddrNack { s with sto := true, result := Config.sentinel, busy := false, si := false }
  | dataEmit (i : Instr) (b : Byte) : Advances s i → s.si = true → s.irqEn = true →
      s.nextCursor < s.length → s.bufferByte s.nextCursor.toNat = some b →
      Effect s i { s with cursor := s.nextCursor, dat := b, si := false }
  | dataEnd (i : Instr) : Advances s i → s.si = true → s.irqEn = true →
      ¬ s.nextCursor < s.length →
      Effect s i { s with cursor := s.nextCursor, sto := true, result := s.nextCursor, busy := false,
                          si := false }
  | dataStrict : s.si = true → s.irqEn = true → s.stat = Config.dataNack →
      s.build.ignoreDataNack = false →
      Effect s .svcDataNackStrict { s with sto := true, result := s.cursor, busy := false, si := false }
  | arbLost : s.si = true → s.irqEn = true → s.stat = Config.arbLost →
      Effect s .svcArbLost { s with sta := false, sto := false, aa := false, result := s.cursor,
                                    busy := false, si := false }
  | initDone (i : Instr) : Runs i .init → s.busy = false → s.argFreq ≠ 0 →
      divOutOfRange s.build.pclk s.argFreq.toNat = false →
      Effect s i (s.configure.respond true)
  | xferDone (i : Instr) : Runs i .xfer → s.busy = false → s.argLen ≠ 0xFFFFFFFF →
      s.argBuf.toNat + s.argLen.toNat ≤ 4294967296 →
      Effect s i (s.arm.respond true)
  | refused (i : Instr) : IsCommand i = true → Effect s i { s with cmdresp := false }
  | fault (i : Instr) (r : FaultReason) : IsCommand i = true → s.busy = false → Effect s i (s.raiseFault r)
  | read (reg : RegIndex) : Effect s (.hostRd reg) { s with rdData := s.readReg reg }
  | argFreq (v : Word) : Effect s (.hostWrArgFreq v) { s with argFreq := v }
  | argPrio (v : Word) : Effect s (.hostWrArgPrio v) { s with argPrio := v.extractLsb' 0 8 }
  | argAddr (v : Word) : Effect s (.hostWrArgAddr v) { s with argAddr := v.extractLsb' 0 7 }
  | argBuf (v : Word) : Effect s (.hostWrArgBuf v) { s with argBuf := v }
  | argLen (v : Word) : Effect s (.hostWrArgLen v) { s with argLen := v }
  | stop : s.en = true → s.si = false → s.sto = true → s.owned = true →
      Effect s .eStop { s with sto := false, owned := false, last := .noPhase, stat := Config.noEvent,
                               wire := .stop :: s.wire }
  | stoidle : s.en = true → s.si = false → s.sto = true → s.owned = false →
      Effect s .eStoidle { s with sto := false }
  | start : s.en = true → s.si = false → s.sto = false → s.sta = true → s.owned = false →
      Effect s (.eStart none) { s with owned := true, last := .start, stat := Config.startSent,
                                       si := true, wire := .start :: s.wire }
  | startOther (c : Byte) : s.en = true → s.si = false → s.sto = false → s.sta = true →
      s.owned = false → s.build.otherEnv = true → Config.recognised c = false →
      Effect s (.eStart (some c)) { s with stat := c, si := true, wire := .other c :: s.wire }
  | byte (acked : Bool) (d : Draw) : d = (if acked then .ack else .nack) →
      s.en = true → s.si = false → s.sto = false → s.sta = false →
      s.owned = true → s.last ≠ .noPhase →
      Effect s (.eByte d) { s with stat := byteCode s.last acked, last := bytePhase s.last, si := true,
                                   wire := .byte s.dat d :: s.wire }
  | byteArb : s.en = true → s.si = false → s.sto = false → s.sta = false → s.owned = true →
      s.last ≠ .noPhase → s.build.arbEnv = true →
      Effect s (.eByte .arb) { s with stat := Config.arbLost, owned := false, last := .noPhase,
                                      si := true, wire := .byte s.dat .arb :: s.wire }
  | byteOther (c : Byte) : s.en = true → s.si = false → s.sto = false → s.sta = false →
      s.owned = true → s.last ≠ .noPhase → s.build.otherEnv = true → Config.recognised c = false →
      Effect s (.eByte (.other c)) { s with stat := c, si := true, wire := .other c :: s.wire }
  | rstart : s.en = true → s.si = false → s.sto = false → s.sta = true → s.owned = true →
      Effect s .eRstart { s with last := .start, stat := Config.rstartSent, si := true,
                                 wire := .rstart :: s.wire }

/-- What `advance` gives (41_event_fsm.md R145): the state itself where the FSM is stuck. -/
theorem State.advance_cases (s : State) :
    s.advance = s ∨
    (s.nextCursor < s.length ∧ ∃ b, s.bufferByte s.nextCursor.toNat = some b ∧
      s.advance = { s with cursor := s.nextCursor, dat := b, si := false }) ∨
    (¬ s.nextCursor < s.length ∧
      s.advance = { s with cursor := s.nextCursor, sto := true, result := s.nextCursor, busy := false,
                           si := false }) := by
  unfold State.advance
  split
  · rename_i h
    cases hb : s.bufferByte s.nextCursor.toNat with
    | none => exact .inl (by simp [State.emitBuffer, hb])
    | some b => exact .inr (.inl ⟨h, b, rfl, by simp [State.emitBuffer, hb, State.emit, State.clearEvent]⟩)
  · rename_i h
    exact .inr (.inr ⟨h, rfl⟩)

/-- What INIT gives (40_host_interface.md R115). -/
theorem effect_of_execInit {s t : State} {i : Instr} (hi : Runs i .init) (h : execInit s = .next t) :
    Effect s i t := by
  unfold execInit at h
  split at h
  · cases h; exact .refused i (hi.isCommand rfl)
  · rename_i hb
    simp only [Bool.not_eq_true] at hb
    split at h
    · cases h; exact .fault i _ (hi.isCommand rfl) hb
    · rename_i hf
      split at h
      · cases h; exact .fault i _ (hi.isCommand rfl) hb
      · rename_i hr
        cases h; exact .initDone i hi hb hf (by simpa using hr)

/-- What XFER gives (40_host_interface.md R117 to R119). -/
theorem effect_of_execXfer {s t : State} {i : Instr} (hi : Runs i .xfer) (h : execXfer s = .next t) :
    Effect s i t := by
  unfold execXfer at h
  split at h
  · cases h; exact .refused i (hi.isCommand rfl)
  · rename_i hb
    simp only [Bool.not_eq_true] at hb
    split at h
    · cases h; exact .fault i _ (hi.isCommand rfl) hb
    · rename_i hl
      split at h
      · cases h; exact .fault i _ (hi.isCommand rfl) hb
      · rename_i hw
        cases h; exact .xferDone i hi hb hl (by omega)

/-- exec has no effect but those of `Effect`. -/
theorem effect_of_exec {i : Instr} {s t : State} (h : exec i s = .next t) : Effect s i t := by
  cases i with
  | svcStartSent =>
    rcases State.takeWhen_next h with ⟨g, rfl⟩ | ⟨_, rfl⟩
    · obtain ⟨h1, h2, h3⟩ := (s.servicing_iff _).mp g
      exact .startSent h1 h2 h3
    · exact .skip _
  | svcAddrAck =>
    rcases State.takeWhen_next h with ⟨g, rfl⟩ | ⟨_, rfl⟩
    · obtain ⟨h1, h2, h3⟩ := (s.servicing_iff _).mp g
      split
      · rename_i hc
        unfold State.emitBuffer
        split
        · rename_i b hb
          exact .addrEmit b h1 h2 h3 hc hb
        · exact .skip _
      · rename_i hc
        exact .addrEnd h1 h2 h3 hc
    · exact .skip _
  | svcAddrNack =>
    rcases State.takeWhen_next h with ⟨g, rfl⟩ | ⟨_, rfl⟩
    · obtain ⟨h1, h2, h3⟩ := (s.servicing_iff _).mp g
      exact .addrNack h1 h2 h3
    · exact .skip _
  | svcDataAck =>
    rcases State.takeWhen_next h with ⟨g, rfl⟩ | ⟨_, rfl⟩
    · obtain ⟨h1, h2, h3⟩ := (s.servicing_iff _).mp g
      rcases s.advance_cases with e | ⟨hc, b, hb, e⟩ | ⟨hc, e⟩ <;> rw [e]
      · exact .skip _
      · exact .dataEmit _ b (.inl ⟨rfl, h3⟩) h1 h2 hc hb
      · exact .dataEnd _ (.inl ⟨rfl, h3⟩) h1 h2 hc
    · exact .skip _
  | svcDataNackStrict =>
    rcases State.takeWhen_next h with ⟨g, rfl⟩ | ⟨_, rfl⟩
    · simp only [Bool.and_eq_true, Bool.not_eq_true'] at g
      obtain ⟨h1, h2, h3⟩ := (s.servicing_iff _).mp g.1
      exact .dataStrict h1 h2 h3 g.2
    · exact .skip _
  | svcDataNackIgnore =>
    rcases State.takeWhen_next h with ⟨g, rfl⟩ | ⟨_, rfl⟩
    · simp only [Bool.and_eq_true] at g
      obtain ⟨h1, h2, h3⟩ := (s.servicing_iff _).mp g.1
      rcases s.advance_cases with e | ⟨hc, b, hb, e⟩ | ⟨hc, e⟩ <;> rw [e]
      · exact .skip _
      · exact .dataEmit _ b (.inr ⟨rfl, h3, g.2⟩) h1 h2 hc hb
      · exact .dataEnd _ (.inr ⟨rfl, h3, g.2⟩) h1 h2 hc
    · exact .skip _
  | svcArbLost =>
    rcases State.takeWhen_next h with ⟨g, rfl⟩ | ⟨_, rfl⟩
    · obtain ⟨h1, h2, h3⟩ := (s.servicing_iff _).mp g
      exact .arbLost h1 h2 h3
    · exact .skip _
  | svcOther c =>
    rcases State.takeWhen_next h with ⟨_, rfl⟩ | ⟨_, rfl⟩ <;> exact .skip _
  | init => exact effect_of_execInit (.inl rfl) h
  | xfer => exact effect_of_execXfer (.inl rfl) h
  | cmdRsvd0 => cases h; exact .refused _ rfl
  | cmdRsvd3 => cases h; exact .refused _ rfl
  | cmdRsvd4to7 low => cases h; exact .refused _ rfl
  | cmdRsvd8toF low => cases h; exact .refused _ rfl
  | hostRd reg => cases h; exact .read reg
  | hostWrCmd w =>
    simp only [exec, execHostWrCmd] at h
    split at h
    · rename_i hw; exact effect_of_execInit (.inr ⟨w, rfl, hw⟩) h
    · rename_i hw; exact effect_of_execXfer (.inr ⟨w, rfl, hw⟩) h
    all_goals first
      | (cases h; exact .skip _)
      | (cases h; exact .refused _ rfl)
  | hostWrArgFreq v => cases h; exact .argFreq v
  | hostWrArgPrio v => cases h; exact .argPrio v
  | hostWrArgAddr v => cases h; exact .argAddr v
  | hostWrArgBuf v => cases h; exact .argBuf v
  | hostWrArgLen v => cases h; exact .argLen v
  | hostWrIgn reg v => cases h; exact .skip _
  | eStop =>
    rcases State.takeWhen_next h with ⟨g, rfl⟩ | ⟨_, rfl⟩
    · simp [EngineFlags.stop, State.engineFlags, and_assoc] at g
      exact .stop g.1 g.2.1 g.2.2.1 g.2.2.2
    · exact .skip _
  | eStoidle =>
    rcases State.takeWhen_next h with ⟨g, rfl⟩ | ⟨_, rfl⟩
    · simp [EngineFlags.stoidle, State.engineFlags, and_assoc] at g
      exact .stoidle g.1 g.2.1 g.2.2.1 g.2.2.2
    · exact .skip _
  | eStart o =>
    cases o with
    | none =>
      rcases State.takeWhen_next h with ⟨g, rfl⟩ | ⟨_, rfl⟩
      · simp [EngineFlags.startOk, State.engineFlags, and_assoc] at g
        obtain ⟨h1, h2, h3, h4, h5⟩ := g
        exact .start h1 h2 h3 h4 h5
      · exact .skip _
    | some c =>
      rcases State.takeWhen_next h with ⟨g, rfl⟩ | ⟨_, rfl⟩
      · simp [EngineFlags.startOk, State.engineFlags, State.admitsDraw, and_assoc] at g
        obtain ⟨h1, h2, h3, h4, h5, h6, h7⟩ := g
        exact .startOther c h1 h2 h3 h4 h5 h6 h7
      · exact .skip _
  | eByte d =>
    rcases State.takeWhen_next h with ⟨g, rfl⟩ | ⟨_, rfl⟩
    · simp [EngineFlags.byteOk, State.engineFlags, and_assoc] at g
      obtain ⟨h1, h2, h3, h4, h5, h6, h7⟩ := g
      cases d with
      | ack => exact .byte true .ack rfl h1 h2 h3 h4 h5 h6
      | nack => exact .byte false .nack rfl h1 h2 h3 h4 h5 h6
      | arb => exact .byteArb h1 h2 h3 h4 h5 h6 h7
      | other c =>
        simp [State.admitsDraw] at h7
        exact .byteOther c h1 h2 h3 h4 h5 h6 h7.1 h7.2
    · exact .skip _
  | eRstart =>
    rcases State.takeWhen_next h with ⟨g, rfl⟩ | ⟨_, rfl⟩
    · simp [EngineFlags.rstart, State.engineFlags, and_assoc] at g
      obtain ⟨h1, h2, h3, h4, h5⟩ := g
      exact .rstart h1 h2 h3 h4 h5
    · exact .skip _

end Sys2Proof.Machine
end

