-- ==== Sys2Proof/Laws/PerInstr.lean ====
section
/-!
SUPPORT. For every instruction: its encoding has the format of its row of spec/opcode_table.json and meets
that row's mask and match. An engine row has no pattern in the table (30_encoding.md R85), so for it only
the format is said.
-/
namespace Sys2Proof.Laws.TableRow

/-- The encoding of `i` is a code of the table's row for `i`. -/
def Statement (i : Instr) : Prop := i.tableRow.admits (encode i) = true

theorem svcStartSent : Statement .svcStartSent := rfl

theorem svcAddrAck : Statement .svcAddrAck := rfl

theorem svcAddrNack : Statement .svcAddrNack := rfl

theorem svcDataAck : Statement .svcDataAck := rfl

theorem svcDataNackStrict : Statement .svcDataNackStrict := rfl

theorem svcDataNackIgnore : Statement .svcDataNackIgnore := rfl

theorem svcArbLost : Statement .svcArbLost := rfl

theorem svcOther (code : Byte) : Statement (.svcOther code) := by
  simp [Statement, Instr.tableRow, TableRow.admits, encode, Code.format]

theorem init : Statement .init := rfl

theorem xfer : Statement .xfer := rfl

theorem cmdRsvd0 : Statement .cmdRsvd0 := rfl

theorem cmdRsvd3 : Statement .cmdRsvd3 := rfl

theorem cmdRsvd4to7 (low : BitVec 2) : Statement (.cmdRsvd4to7 low) := by
  revert low
  unfold Statement
  decide

theorem cmdRsvd8toF (low : BitVec 3) : Statement (.cmdRsvd8toF low) := by
  revert low
  unfold Statement
  decide

theorem hostRd (reg : RegIndex) : Statement (.hostRd reg) := by
  simp [Statement, Instr.tableRow, TableRow.admits, encode, Code.format, Access.rd]

theorem hostWrCmd (word : Word) : Statement (.hostWrCmd word) := by
  simp [Statement, Instr.tableRow, TableRow.admits, encode, Code.format, Code.tableBits, Access.wr]

theorem hostWrArgFreq (value : Word) : Statement (.hostWrArgFreq value) := by
  simp [Statement, Instr.tableRow, TableRow.admits, encode, Code.format, Code.tableBits, Access.wr]

theorem hostWrArgPrio (value : Word) : Statement (.hostWrArgPrio value) := by
  simp [Statement, Instr.tableRow, TableRow.admits, encode, Code.format, Code.tableBits, Access.wr]

theorem hostWrArgAddr (value : Word) : Statement (.hostWrArgAddr value) := by
  simp [Statement, Instr.tableRow, TableRow.admits, encode, Code.format, Code.tableBits, Access.wr]

theorem hostWrArgBuf (value : Word) : Statement (.hostWrArgBuf value) := by
  simp [Statement, Instr.tableRow, TableRow.admits, encode, Code.format, Code.tableBits, Access.wr]

theorem hostWrArgLen (value : Word) : Statement (.hostWrArgLen value) := by
  simp [Statement, Instr.tableRow, TableRow.admits, encode, Code.format, Code.tableBits, Access.wr]

theorem hostWrIgn (reg : RegIndex) (value : Word) : Statement (.hostWrIgn reg value) := by
  simp [Statement, Instr.tableRow, TableRow.admits, encode, Code.format, Access.wr]

theorem eStop : Statement .eStop := rfl

theorem eStoidle : Statement .eStoidle := rfl

theorem eStart (other : Option Byte) : Statement (.eStart other) := by
  cases other <;> simp [Statement, Instr.tableRow, TableRow.admits, encode, Code.format, Code.tableBits]

theorem eByte (draw : Draw) : Statement (.eByte draw) := by
  simp [Statement, Instr.tableRow, TableRow.admits, encode, Code.format, Code.tableBits]

theorem eRstart : Statement .eRstart := rfl

end Sys2Proof.Laws.TableRow
end

