-- ==== Sys2Proof/Laws/Step.lean ====
section
/-!
SUPPORT. What one step can do, said once: the next turn of the schedule, and the four kinds of effect a turn
can have. Which turns run which instructions.
-/
namespace Sys2Proof.Machine

theorem step_nil {s : State} (h : s.inputs = []) : step s = .next s := by
  simp [step, stepTurn, h]

theorem step_cons {s : State} {inp : Input} {rest : List Input} (h : s.inputs = inp :: rest) :
    step s = runInput inp { s with inputs := rest } := by
  simp [step, stepTurn, h]

/-- A context that takes its turn changes the list of contexts only. -/
theorem State.advanceContext_eq (t : State) (k : Nat) :
    ∃ cs, t.advanceContext k = { t with contexts := cs } := by
  unfold State.advanceContext
  split
  · exact ⟨t.contexts, rfl⟩
  · exact ⟨_, rfl⟩

theorem finishTurn_next {inp : Input} {o : Host.Outcome State Fault Refusal} {t : State}
    (h : finishTurn inp o = .next t) : ∃ u cs, o = .next u ∧ t = { u with contexts := cs } := by
  unfold finishTurn at h
  split at h
  · rename_i k u
    obtain ⟨cs, hcs⟩ := u.advanceContext_eq k
    rw [hcs] at h
    cases h
    exact ⟨u, cs, rfl, rfl⟩
  · exact ⟨t, t.contexts, h, rfl⟩

/-- What a turn amounts to does not depend on the turns that come after it. -/
@[simp] theorem State.action_inputs (s : State) (rest : List Input) (inp : Input) :
    ({ s with inputs := rest } : State).action inp = s.action inp := by
  cases inp <;> rfl

/-- Everything a step that answers a next state can have done: nothing (no turn left), or one turn, which
ran an instruction, raised a fault, wrote host memory, made a faulting write, wrote past the top of the address
space, or changed nothing; a host context may move on. -/
theorem step_cases {s t : State} (h : step s = .next t) :
    (s.inputs = [] ∧ t = s) ∨
    ∃ inp rest u cs, s.inputs = inp :: rest ∧ t = { u with contexts := cs } ∧
      ((∃ i, s.action inp = .run i ∧ exec i { s with inputs := rest } = .next u) ∨
       (∃ r, s.action inp = .fault r ∧ u = ({ s with inputs := rest } : State).raiseFault r) ∨
       (∃ a bs, s.action inp = .memWrite a bs ∧
         u = { s with inputs := rest, mem := s.mem.writeBytes a bs }) ∨
       (∃ a n, s.action inp = .hazard a n ∧
         u = ({ s with inputs := rest } : State).hazardWrite a n) ∨
       (∃ a n, s.action inp = .edge a n ∧
         u = ({ s with inputs := rest } : State).disturb a n) ∨
       (s.action inp = .idle ∧ u = { s with inputs := rest })) := by
  cases hin : s.inputs with
  | nil =>
    rw [step_nil hin] at h
    cases h
    exact .inl ⟨rfl, rfl⟩
  | cons inp rest =>
    rw [step_cons hin, runInput, State.action_inputs] at h
    obtain ⟨u, cs, hu, rfl⟩ := finishTurn_next h
    refine .inr ⟨inp, rest, u, cs, rfl, rfl, ?_⟩
    cases ha : s.action inp with
    | run i => rw [ha] at hu; exact .inl ⟨i, rfl, hu⟩
    | fault r => rw [ha] at hu; cases hu; exact .inr (.inl ⟨r, rfl, rfl⟩)
    | memWrite a bs => rw [ha] at hu; cases hu; exact .inr (.inr (.inl ⟨a, bs, rfl, rfl⟩))
    | hazard a n => rw [ha] at hu; cases hu; exact .inr (.inr (.inr (.inl ⟨a, n, rfl, rfl⟩)))
    | edge a n => rw [ha] at hu; cases hu; exact .inr (.inr (.inr (.inr (.inl ⟨a, n, rfl, rfl⟩))))
    | idle => rw [ha] at hu; cases hu; exact .inr (.inr (.inr (.inr (.inr ⟨rfl, rfl⟩))))

/-- Host-port instructions: what a host turn can run. -/
def IsHostPort : Instr → Bool
  | .hostRd _ | .hostWrCmd _ | .hostWrArgFreq _ | .hostWrArgPrio _ | .hostWrArgAddr _ => true
  | .hostWrArgBuf _ | .hostWrArgLen _ | .hostWrIgn _ _ => true
  | _ => false

theorem isHostPort_decodeWrite (reg : RegIndex) (v : Word) : IsHostPort (decodeWrite reg v) = true := by
  unfold decodeWrite
  repeat' split
  all_goals rfl

theorem isHostPort_of_decodeAccess {a : Access} {i : Instr} (h : decodeAccess a = .ok i) :
    IsHostPort i = true := by
  unfold decodeAccess at h
  split at h
  · cases h
  · split at h
    · cases h
    · split at h
      · cases h; exact isHostPort_decodeWrite _ _
      · cases h; rfl

theorem accessAction_run {a : Access} {i : Instr} (h : accessAction a = .run i) :
    IsHostPort i = true := by
  unfold accessAction at h
  split at h
  · rename_i j hj
    cases h
    exact isHostPort_of_decodeAccess hj
  · cases h

/-- An access to the block runs an instruction or faults, and does nothing else. -/
theorem accessAction_cases (a : Access) :
    (∃ i, accessAction a = .run i) ∨ accessAction a = .fault .mmioAccess := by
  unfold accessAction
  split
  · exact .inl ⟨_, rfl⟩
  · exact .inr rfl

theorem State.blockAction_cases (s : State) (w : Bool) (addr size : Nat) (v : Word) :
    (∃ i, s.blockAction w addr size v = .run i) ∨ s.blockAction w addr size v = .fault .mmioAccess := by
  unfold State.blockAction
  split
  · exact accessAction_cases _
  · exact .inr rfl

/-- A turn that is no store runs an instruction, faults on its access, or changes nothing. -/
theorem State.action_cases (s : State) (inp : Input) (h : ∀ addr bytes, inp ≠ .store addr bytes) :
    (∃ i, s.action inp = .run i) ∨ s.action inp = .fault .mmioAccess ∨ s.action inp = .idle := by
  have option_cases : ∀ o : Option Instr, (∃ i, actionOf o = .run i) ∨ actionOf o = .idle := by
    intro o
    cases o with
    | none => exact .inr rfl
    | some i => exact .inl ⟨i, rfl⟩
  cases inp with
  | reg a =>
    rcases accessAction_cases a with h | h
    · exact .inl h
    · exact .inr (.inl h)
  | load addr size =>
    simp only [State.action, State.loadAction]
    split
    · rcases s.blockAction_cases false addr.toNat size 0 with h | h
      · exact .inl h
      · exact .inr (.inl h)
    · exact .inr (.inr rfl)
  | store addr bytes => exact absurd rfl (h addr bytes)
  | turn k =>
    rcases option_cases (s.contextInstr k) with h | h
    · exact .inl h
    · exact .inr (.inr h)
  | service =>
    rcases option_cases s.fsmSelect with h | h
    · exact .inl h
    · exact .inr (.inr h)
  | engine d =>
    rcases option_cases (engineSelect s.engineFlags d) with h | h
    · exact .inl h
    · exact .inr (.inr h)

/-- What a store amounts to: an access to the block, a hazard, a write past the top, or a write to host memory
that ends inside the address space and misses the buffer in flight (20_memory.md R61, R68). -/
theorem State.storeAction_cases (s : State) (addr : Nat) (bytes : List Byte) :
    ((∃ i, s.storeAction addr bytes = .run i) ∨ s.storeAction addr bytes = .fault .mmioAccess) ∨
    (s.storeAction addr bytes = .hazard addr bytes.length ∧ s.touchesBuffer addr bytes.length = true) ∨
    (s.storeAction addr bytes = .edge addr bytes.length ∧ s.touchesBuffer addr bytes.length = false) ∨
    (s.storeAction addr bytes = .memWrite addr bytes ∧ s.touchesBuffer addr bytes.length = false ∧
      addr + bytes.length ≤ 4294967296) := by
  unfold State.storeAction
  split
  · exact .inl (s.blockAction_cases _ _ _ _)
  · split
    · rename_i hb
      exact .inr (.inl ⟨rfl, hb⟩)
    · rename_i hb
      simp only [Bool.not_eq_true] at hb
      split
      · exact .inr (.inr (.inl ⟨rfl, hb⟩))
      · rename_i hle
        exact .inr (.inr (.inr ⟨rfl, hb, by omega⟩))

theorem State.blockAction_run {s : State} {w : Bool} {addr size : Nat} {v : Word} {i : Instr}
    (h : s.blockAction w addr size v = .run i) : IsHostPort i = true := by
  unfold State.blockAction at h
  split at h
  · exact accessAction_run h
  · cases h

/-- Which instruction a turn can run: a host turn a host-port instruction, the FSM's turn the handler of
STAT, the engine's turn the step whose guard holds. -/
theorem State.action_run {s : State} {inp : Input} {i : Instr} (h : s.action inp = .run i) :
    IsHostPort i = true ∨
    (inp = .service ∧ s.si = true ∧ s.irqEn = true ∧ i = decodeStatus s.build.ignoreDataNack s.stat) ∨
    (∃ d, inp = .engine d ∧ engineSelect s.engineFlags d = some i) := by
  cases inp with
  | reg a => exact .inl (accessAction_run h)
  | load addr size =>
    simp only [State.action, State.loadAction] at h
    split at h
    · exact .inl (State.blockAction_run h)
    · cases h
  | store addr bytes =>
    simp only [State.action, State.storeAction] at h
    split at h
    · exact .inl (State.blockAction_run h)
    · split at h
      · cases h
      · split at h <;> cases h
  | turn k =>
    refine .inl ?_
    simp only [State.action, State.contextInstr] at h
    cases hc : s.contexts[k]? with
    | none => rw [hc] at h; cases h
    | some c =>
      rw [hc] at h
      cases hp : c.prog with
      | nil => simp [hp, actionOf] at h
      | cons op ops =>
        simp [hp, actionOf] at h
        subst h
        cases op with
        | rd dst reg => rfl
        | wr reg v => exact isHostPort_decodeWrite reg v
        | spin dst reg mask v => rfl
        | rdAccepted dst r skip => rfl
  | service =>
    refine .inr (.inl ?_)
    simp only [State.action, State.fsmSelect] at h
    split at h
    · rename_i g
      simp only [Bool.and_eq_true] at g
      cases h
      exact ⟨rfl, g.1, g.2, rfl⟩
    · cases h
  | engine d =>
    refine .inr (.inr ⟨d, rfl, ?_⟩)
    simp only [State.action, actionOf] at h
    split at h
    · rename_i j hj
      cases h
      exact hj
    · cases h

/-- A turn that writes host memory, as any of the three actions that do, is a store. -/
theorem State.action_store {s : State} {inp : Input}
    (hr : ∀ i, s.action inp ≠ .run i) (hf : s.action inp ≠ .fault .mmioAccess) (hi : s.action inp ≠ .idle) :
    ∃ addr bytes, inp = .store addr bytes := by
  by_contra hn
  rcases s.action_cases inp (fun addr bytes e => hn ⟨addr, bytes, e⟩) with ⟨i, h⟩ | h | h
  · exact hr i h
  · exact hf h
  · exact hi h

/-- A host memory write is a store that ends inside the address space and touches neither the block nor the
buffer of the transaction in flight (20_memory.md R68). -/
theorem State.action_memWrite {s : State} {inp : Input} {a : Nat} {bs : List Byte}
    (h : s.action inp = .memWrite a bs) :
    a + bs.length ≤ 4294967296 ∧ s.touchesBuffer a bs.length = false := by
  obtain ⟨addr, bytes, rfl⟩ := State.action_store (s := s) (inp := inp) (by simp [h]) (by simp [h]) (by simp [h])
  change s.storeAction addr.toNat bytes = _ at h
  rcases s.storeAction_cases addr.toNat bytes with (⟨i, e⟩ | e) | ⟨e, _⟩ | ⟨e, _⟩ | ⟨e, hb, hl⟩ <;> rw [e] at h <;>
    cases h
  exact ⟨hl, hb⟩

/-- A hazard is a store to a 32-bit address that touches the buffer of the transaction in flight
(20_memory.md R68). -/
theorem State.action_hazard {s : State} {inp : Input} {a n : Nat} (h : s.action inp = .hazard a n) :
    a < 4294967296 ∧ s.touchesBuffer a n = true := by
  obtain ⟨addr, bytes, rfl⟩ := State.action_store (s := s) (inp := inp) (by simp [h]) (by simp [h]) (by simp [h])
  change s.storeAction addr.toNat bytes = _ at h
  rcases s.storeAction_cases addr.toNat bytes with (⟨i, e⟩ | e) | ⟨e, hb⟩ | ⟨e, _⟩ | ⟨e, _⟩ <;> rw [e] at h <;>
    cases h
  exact ⟨addr.isLt, hb⟩

/-- A write past the top is a store to a 32-bit address that misses the buffer in flight. -/
theorem State.action_edge {s : State} {inp : Input} {a n : Nat} (h : s.action inp = .edge a n) :
    a < 4294967296 ∧ s.touchesBuffer a n = false := by
  obtain ⟨addr, bytes, rfl⟩ := State.action_store (s := s) (inp := inp) (by simp [h]) (by simp [h]) (by simp [h])
  change s.storeAction addr.toNat bytes = _ at h
  rcases s.storeAction_cases addr.toNat bytes with (⟨i, e⟩ | e) | ⟨e, _⟩ | ⟨e, hb⟩ | ⟨e, _⟩ <;> rw [e] at h <;>
    cases h
  exact ⟨addr.isLt, hb⟩

end Sys2Proof.Machine
end

