-- ==== Sys2Proof/Tests/Slice0.lean ====
section
/-!
SUPPORT. The model's own tests: well-formedness, decoding of words written out from the spec, one or two small
steps per instruction with expected values from 95_test_vectors.md, and a witness for every statement of
Certificates/Slice0/Obligations.lean that has hypotheses.
-/
namespace Sys2Proof.Tests.Slice0
open Sys2Proof Sys2Proof.Machine

/-! ### Helpers -/

/-- The common settings of 95_test_vectors.md, with BASE = 0x4000_0000. -/
def bld : Build :=
  { pclk := 25000000, ignoreDataNack := false, base := 0x40000000, arbEnv := true, otherEnv := true,
    engineProgress := false }

/-- The other policy: IGNORE_DATA_NACK = true. -/
def bldIgnore : Build := { bld with ignoreDataNack := true }

/-- A build whose environment gives neither arbitration loss nor replacing codes. -/
def bldPlain : Build := { bld with arbEnv := false, otherEnv := false }

def s0 : State := State.launch bld [] [] []

/-- The buffer of 95_test_vectors.md 2.5: 0x11, 0x22, 0x33 at 0x1000_0000. -/
def buf : Memory := [(0x10000000, 0x11), (0x10000001, 0x22), (0x10000002, 0x33)]

/-- After INIT, a transaction of three bytes to target 0x27 in flight. -/
def sBusy : State :=
  { s0 with en := true, irqEn := true, busy := true, sla := 0x4E, bufbase := 0x10000000, length := 3,
            mem := buf }

/-- An event of code `c` pending in that transaction. -/
def sEvent (c : Byte) : State := { sBusy with si := true, stat := c }

/-- The bus owned, with DAT about to be shifted. -/
def sBus (last : Phase) (dat : Byte) : State := { sBusy with owned := true, last := last, dat := dat }

/-- The outcome is a next state of which `p` holds. -/
def next (o : Host.Outcome State Fault Refusal) (p : State → Bool) : Bool :=
  match o with
  | .next t => p t
  | _ => false

/-- The step with these turns scheduled. -/
def stepWith (s : State) (inputs : List Input) : Host.Outcome State Fault Refusal :=
  step { s with inputs := inputs }

/-! ### WellFormed: each check refuses an ill-formed term -/

theorem test_wf_svcOther : (Instr.svcOther 0x28).wf = false ∧ (Instr.svcOther 0x29).wf = true := by decide
theorem test_wf_hostWrIgn_cmd : (Instr.hostWrIgn 0x00 0).wf = false ∧ (Instr.hostWrIgn 0x01 0).wf = true := by decide
theorem test_wf_hostWrIgn_staging :
    (Instr.hostWrIgn 0x10 0).wf = false ∧ (Instr.hostWrIgn 0x14 0).wf = false ∧
    (Instr.hostWrIgn 0x0F 0).wf = true ∧ (Instr.hostWrIgn 0x15 0).wf = true := by decide
theorem test_wf_eStart : (Instr.eStart (some 0x08)).wf = false ∧ (Instr.eStart (some 0x10)).wf = true := by decide
theorem test_wf_eByte :
    (Instr.eByte (.other 0x38)).wf = false ∧ (Instr.eByte (.other 0xF8)).wf = true := by decide
theorem test_wf_draw : (Draw.other 0x18).wf = false := by decide
theorem test_wf_access_size : (Access.wf ⟨true, 2, 0x04, 0⟩) = false := by decide
theorem test_wf_access_align : (Access.wf ⟨true, 4, 0x06, 0⟩) = false ∧ Access.wf ⟨true, 4, 0x04, 0⟩ = true := by decide
theorem test_wf_memory_order : Memory.wf [(2, 0), (1, 0)] = false ∧ Memory.wf [(4294967296, 0)] = false := by decide

/-! ### Decode: every constructor from a word written out from 30_encoding.md R88, R92 and 20_memory.md R61 -/

theorem test_decode_svcStartSent : decode (.status false 0b00001000) = .ok .svcStartSent := by decide
theorem test_decode_svcAddrAck : decode (.status false 0b00011000) = .ok .svcAddrAck := by decide
theorem test_decode_svcAddrNack : decode (.status true 0b00100000) = .ok .svcAddrNack := by decide
theorem test_decode_svcDataAck : decode (.status true 0b00101000) = .ok .svcDataAck := by decide
theorem test_decode_svcDataNackStrict : decode (.status false 0b00110000) = .ok .svcDataNackStrict := by decide
theorem test_decode_svcDataNackIgnore : decode (.status true 0b00110000) = .ok .svcDataNackIgnore := by decide
theorem test_decode_svcArbLost : decode (.status false 0b00111000) = .ok .svcArbLost := by decide
theorem test_decode_svcOther : decode (.status false 0b11111000) = .ok (.svcOther 0xF8) := by decide
theorem test_decode_exact : decode (.status false 0b00011001) = .ok (.svcOther 0x19) := by decide
theorem test_decode_init : decode (.command 0xABCD0001) = .ok .init := by decide
theorem test_decode_xfer : decode (.command 0xFFFFFFF2) = .ok .xfer := by decide
theorem test_decode_cmdRsvd0 : decode (.command 0xFFFFFFF0) = .ok .cmdRsvd0 := by decide
theorem test_decode_cmdRsvd3 : decode (.command 0x00000003) = .ok .cmdRsvd3 := by decide
theorem test_decode_cmdRsvd4to7 :
    decode (.command 0x00000004) = .ok (.cmdRsvd4to7 0b00) ∧
    decode (.command 0x00000007) = .ok (.cmdRsvd4to7 0b11) := by decide
theorem test_decode_cmdRsvd8toF :
    decode (.command 0x00000008) = .ok (.cmdRsvd8toF 0b000) ∧
    decode (.command 0x0000000F) = .ok (.cmdRsvd8toF 0b111) := by decide
theorem test_decode_hostRd : decode (.access ⟨false, 4, 0b0100000, 0⟩) = .ok (.hostRd 0x08) := by decide
theorem test_decode_hostWrCmd : decode (.access ⟨true, 4, 0b0000000, 2⟩) = .ok (.hostWrCmd 2) := by decide
theorem test_decode_hostWrArgFreq : decode (.access ⟨true, 4, 0b1000000, 9⟩) = .ok (.hostWrArgFreq 9) := by decide
theorem test_decode_hostWrArgPrio : decode (.access ⟨true, 4, 0b1000100, 9⟩) = .ok (.hostWrArgPrio 9) := by decide
theorem test_decode_hostWrArgAddr : decode (.access ⟨true, 4, 0b1001000, 9⟩) = .ok (.hostWrArgAddr 9) := by decide
theorem test_decode_hostWrArgBuf : decode (.access ⟨true, 4, 0b1001100, 9⟩) = .ok (.hostWrArgBuf 9) := by decide
theorem test_decode_hostWrArgLen : decode (.access ⟨true, 4, 0b1010000, 9⟩) = .ok (.hostWrArgLen 9) := by decide
theorem test_decode_hostWrIgn :
    decode (.access ⟨true, 4, 0b0000100, 9⟩) = .ok (.hostWrIgn 0x01 9) ∧
    decode (.access ⟨true, 4, 0b0111100, 9⟩) = .ok (.hostWrIgn 0x0F 9) ∧
    decode (.access ⟨true, 4, 0b1010100, 9⟩) = .ok (.hostWrIgn 0x15 9) ∧
    decode (.access ⟨true, 4, 0b1111100, 9⟩) = .ok (.hostWrIgn 0x1F 9) := by decide
theorem test_decode_eStop : decode (.engine ⟨true, false, true, true, true, .data⟩ .ack) = .ok .eStop := by decide
theorem test_decode_eStoidle :
    decode (.engine ⟨true, false, true, false, false, .noPhase⟩ .ack) = .ok .eStoidle := by decide
theorem test_decode_eStart :
    decode (.engine ⟨true, false, false, true, false, .noPhase⟩ .nack) = .ok (.eStart none) ∧
    decode (.engine ⟨true, false, false, true, false, .noPhase⟩ (.other 0)) = .ok (.eStart (some 0)) := by decide
theorem test_decode_eByte :
    decode (.engine ⟨true, false, false, false, true, .start⟩ .nack) = .ok (.eByte .nack) := by decide
theorem test_decode_eRstart :
    decode (.engine ⟨true, false, false, true, true, .data⟩ .ack) = .ok .eRstart := by decide
theorem test_decode_rejects :
    decode (.access ⟨true, 1, 0x04, 0⟩) = .error .accessNotWord ∧
    decode (.access ⟨false, 4, 0x06, 0⟩) = .error .accessMisaligned ∧
    decode (.engine ⟨false, false, false, true, false, .noPhase⟩ .ack) = .error .noEngineStep ∧
    decode (.engine ⟨true, false, false, false, true, .noPhase⟩ .ack) = .error .noEngineStep := by decide

/-! ### The table's words, and the step that runs them first after reset -/

theorem test_table_words :
    decodeTableWord 8 0x18 = some .svcAddrAck ∧ decodeTableWord 8 0x30 = some .svcDataNackStrict ∧
    decodeTableWord 8 0xF8 = some (.svcOther 0xF8) ∧ decodeTableWord 8 0x02 = some .xfer ∧
    decodeTableWord 32 0xABCD0001 = some .init ∧ decodeTableWord 8 0x4C = some (.hostWrArgBuf 0) ∧
    decodeTableWord 16 0x18 = none := by decide
theorem test_fetch_status : next (step (State.reset.withFetchWord 8 0x38))
    (fun t => !t.si && t.result == 0 && t.inputs.isEmpty) = true := by decide
theorem test_fetch_command : next (step (State.reset.withFetchWord 8 0x02))
    (fun t => t.busy && t.sta && t.cmdresp) = true := by decide

/-! ### INIT (95_test_vectors.md 2.1) -/

theorem test_init_even : next (exec .init { s0 with argFreq := 100000, argPrio := 5 })
    (fun t => t.scll == 125 && t.sclh == 125 && t.prio == 5 && t.conflagsWord == 0xC0 && t.statusWord == 2)
    = true := by decide
theorem test_init_odd : next (exec .init { s0 with argFreq := 96000 })
    (fun t => t.scll == 130 && t.sclh == 131) = true := by decide
theorem test_divider_bounds :
    divOutOfRange 25000000 190 = true ∧ divOutOfRange 25000000 191 = false ∧
    divLow 25000000 382 = 32722 ∧ divHigh 25000000 382 = 32724 ∧
    divOutOfRange 25000000 12500000 = false ∧ divOutOfRange 25000000 12500001 = true := by decide

/-! ### XFER and the reserved commands (2.2, 2.3) -/

theorem test_xfer_accepted :
    next (exec .xfer { s0 with en := true, irqEn := true, argAddr := 0x27, argBuf := 0x10000000, argLen := 2 })
      (fun t => t.sla == 0x4E && t.length == 2 && t.statusWord == 3 && t.conflagsWord == 0xE0) = true := by
  decide
theorem test_xfer_wrap :
    next (exec .xfer { s0 with argBuf := 0xFFFFFFF0, argLen := 0x10 }) (fun t => t.busy) = true ∧
    next (exec .xfer { s0 with argBuf := 0xFFFFFFF0, argLen := 0x11 })
      (fun t => !t.busy && t.faultMark == some .xferWrap) = true := by decide
theorem test_rsvd0 : next (exec .cmdRsvd0 { s0 with cmdresp := true }) (fun t => !t.cmdresp) = true := by decide
theorem test_rsvd3 : next (exec .cmdRsvd3 { sBusy with cmdresp := true })
    (fun t => t == sBusy) = true := by decide
theorem test_rsvd7 : next (exec (.cmdRsvd4to7 3) { s0 with cmdresp := true }) (fun t => t == s0) = true := by decide
theorem test_rsvdF : next (exec (.cmdRsvd8toF 7) { s0 with cmdresp := true }) (fun t => t == s0) = true := by decide

/-! ### Register reads and writes (2.4) -/

theorem test_rd_conflags : next (exec (.hostRd 0x08) { s0 with en := true, irqEn := true, sta := true, si := true })
    (fun t => t.rdData == 0xE8) = true := by decide
theorem test_rd_engstate : next (exec (.hostRd 0x0E) (sBus .addr 0)) (fun t => t.rdData == 5) = true := by decide
theorem test_wr_cmd_high_bits : next (exec (.hostWrCmd 0xFFFFFFF2) s0) (fun t => t.busy) = true := by decide
theorem test_wr_argFreq : next (exec (.hostWrArgFreq 0xFFFFFFFF) s0) (fun t => t.argFreq == 0xFFFFFFFF) = true := by
  decide
theorem test_wr_argPrio : next (exec (.hostWrArgPrio 0x1FF) s0) (fun t => t.readReg 0x11 == 0xFF) = true := by decide
theorem test_wr_argAddr : next (exec (.hostWrArgAddr 0xA7) s0) (fun t => slaByte t.argAddr == 0x4E) = true := by decide
theorem test_wr_argBuf : next (exec (.hostWrArgBuf 0x20000000) sBusy)
    (fun t => t.argBuf == 0x20000000 && t.bufbase == 0x10000000) = true := by decide
theorem test_wr_argLen : next (exec (.hostWrArgLen 7) s0) (fun t => t.argLen == 7) = true := by decide
theorem test_wr_ignored : next (stepWith (sEvent 0x18) [.reg ⟨true, 4, 0x20, 0x10⟩])
    (fun t => t == sEvent 0x18) = true := by decide
theorem test_narrow_access_faults : next (stepWith s0 [.reg ⟨false, 1, 0x04, 0⟩])
    (fun t => t.faultMark == some .mmioAccess) = true := by decide

/-! ### Event FSM (2.5) -/

theorem test_startSent : next (exec .svcStartSent { sEvent 0x08 with sta := true })
    (fun t => t.dat == 0x4E && !t.sta && !t.si) = true := by decide
theorem test_addrAck : next (exec .svcAddrAck (sEvent 0x18)) (fun t => t.dat == 0x11 && t.busy && !t.si) = true := by
  decide
theorem test_addrAck_zero : next (exec .svcAddrAck { sEvent 0x18 with length := 0, result := 7 })
    (fun t => t.sto && t.result == 0 && !t.busy && !t.si) = true := by decide
theorem test_addrNack : next (exec .svcAddrNack (sEvent 0x20))
    (fun t => t.sto && t.result == 0xFFFFFFFF && !t.busy && t.cursor == 0) = true := by decide
theorem test_dataAck : next (exec .svcDataAck { sEvent 0x28 with cursor := 1 })
    (fun t => t.cursor == 2 && t.dat == 0x33 && t.busy) = true := by decide
theorem test_dataAck_last : next (exec .svcDataAck { sEvent 0x28 with cursor := 2, dat := 0x33 })
    (fun t => t.cursor == 3 && t.sto && t.result == 3 && !t.busy && t.dat == 0x33) = true := by decide
theorem test_dataNackStrict : next (exec .svcDataNackStrict { sEvent 0x30 with cursor := 2 })
    (fun t => t.sto && t.result == 2 && t.cursor == 2 && !t.busy) = true := by decide
theorem test_dataNackIgnore : next (exec .svcDataNackIgnore { sEvent 0x30 with build := bldIgnore })
    (fun t => t.cursor == 1 && t.dat == 0x22 && t.busy && !t.sto) = true := by decide
theorem test_arbLost : next (exec .svcArbLost { sEvent 0x38 with cursor := 1, aa := true })
    (fun t => t.result == 1 && !t.busy && !t.si && !t.aa && !t.sto && t.en && t.irqEn) = true := by decide
theorem test_other : next (exec (.svcOther 0x10) (sEvent 0x10)) (fun t => t == sEvent 0x10) = true := by decide

/-! ### Bus engine (2.6) -/

theorem test_eStart : next (exec (.eStart none) { sBusy with sta := true })
    (fun t => t.owned && t.last == .start && t.stat == 0x08 && t.si && t.sta) = true := by decide
theorem test_eStart_replaced : next (exec (.eStart (some 0x00)) { sBusy with sta := true })
    (fun t => !t.owned && t.last == .noPhase && t.stat == 0x00 && t.si) = true := by decide
theorem test_eByte_address : next (exec (.eByte .ack) (sBus .start 0x4E))
    (fun t => t.stat == 0x18 && t.last == .addr && t.si && t.dat == 0x4E) = true := by decide
theorem test_eByte_data : next (exec (.eByte .nack) (sBus .data 0x22))
    (fun t => t.stat == 0x30 && t.last == .data && t.wire == [.byte 0x22 .nack]) = true := by decide
theorem test_eStop : next (exec .eStop { sBus .data 0x22 with sto := true, sta := true })
    (fun t => !t.sto && !t.owned && t.last == .noPhase && t.stat == 0xF8 && !t.si && t.sta) = true := by decide
theorem test_eStoidle : next (exec .eStoidle { sBusy with sto := true }) (fun t => t == sBusy) = true := by decide
theorem test_eRstart : next (exec .eRstart { sBus .data 0x22 with sta := true })
    (fun t => t.stat == 0x10 && t.last == .start && t.si) = true := by decide
theorem test_engine_held : next (stepWith { sEvent 0x08 with sta := true } [.engine .ack])
    (fun t => t == { sEvent 0x08 with sta := true }) = true := by decide

/-! ### Host memory (2.7) -/

theorem test_hazard_edge :
    sBusy.touchesBuffer 0x10000002 1 = true ∧ sBusy.touchesBuffer 0x10000000 1 = true ∧
    sBusy.touchesBuffer 0x10000003 1 = false ∧ { sBusy with busy := false }.touchesBuffer 0x10000000 1 = false := by
  decide
theorem test_hazard_faults : next (stepWith sBusy [.store 0x10000002 [0x99]])
    (fun t => t.faultMark == some .bufHazard && t.busy) = true := by decide
theorem test_memory_write : next (stepWith s0 [.store 0x10000000 [0x99]])
    (fun t => t.mem == [(0x10000000, 0x99)]) = true := by decide
/-- 60_exceptions.md R213 at the top of the address space: F_MMIO_ACCESS before everything else. -/
theorem test_top_block_faults : next (stepWith { s0 with build := { bld with base := 0xFFFFFF80 } } [.load 0xFFFFFFFE 4])
    (fun t => t.faultMark == some .mmioAccess) = true := by decide
theorem test_top_buffer_hazard :
    next (stepWith { sBusy with bufbase := 0xFFFFFFFD } [.store 0xFFFFFFFF [1, 2]])
      (fun t => t.faultMark == some .bufHazard) = true := by decide
theorem test_top_no_stop : next (stepWith s0 [.store 0xFFFFFFFF [1, 2]])
    (fun t => t.faultMark == none && t.openDraws == 1) = true := by decide

/-! ### Witnesses: states and operands that meet the hypotheses of each statement, clause by clause -/

/-- A schedule with this turn next. -/
def at1 (s : State) (inp : Input) : State := { s with inputs := [inp] }

theorem wit_StepRunsDecodedInstruction :
    (Instr.hostWrArgBuf 9).wf = true ∧ decode (.access ⟨true, 4, 0x4C, 9⟩) = .ok (.hostWrArgBuf 9) ∧
    (at1 s0 (.reg ⟨true, 4, 0x4C, 9⟩)).inputs = .reg ⟨true, 4, 0x4C, 9⟩ :: [] ∧
    (at1 (sEvent 0x28) .service).inputs = .service :: [] ∧ (sEvent 0x28).si = true ∧
    (sEvent 0x28).irqEn = true ∧ decode (.status bld.ignoreDataNack (sEvent 0x28).stat) = .ok .svcDataAck ∧
    decode (.engine (sBus .start 0x4E).engineFlags .ack) = .ok (.eByte .ack) := by decide
theorem wit_StepRunsDecodedInstruction_turn :
    ∃ t, ({ s0 with contexts := [⟨[.wr 0x14 7], []⟩] } : State).contexts[0]? = some ⟨[.wr 0x14 7], []⟩ ∧
      (HostOp.wr 0x14 7).instr = .hostWrArgLen 7 ∧
      exec (.hostWrArgLen 7) { s0 with contexts := [⟨[.wr 0x14 7], []⟩] } = .next t :=
  ⟨_, rfl, rfl, rfl⟩
theorem wit_TurnWithoutStepChangesNothing :
    s0.inputs = [] ∧ s0.si = false ∧ (at1 { sEvent 0x18 with irqEn := false } .service).irqEn = false ∧
    (at1 { sEvent 0x18 with irqEn := false } .service).inputs = .service :: [] ∧
    (at1 s0 (.engine .ack)).inputs = .engine .ack :: [] ∧
    decode (.engine s0.engineFlags .ack) = .error .noEngineStep ∧
    (at1 s0 (.turn 0)).contexts[0]? = none ∧ (at1 s0 (.turn 0)).inputs = .turn 0 :: [] ∧
    ({ s0 with contexts := [⟨[], [1]⟩] } : State).contexts[0]? = some ⟨[], [1]⟩ := by decide
theorem wit_DecodeEncodeAgree :
    (Instr.svcOther 0xF8).wf = true ∧ (Instr.hostWrIgn 0x1F 0xFFFFFFFF).wf = true ∧
    (Instr.eByte (.other 0x00)).wf = true ∧ (Instr.eStart none).wf = true := by decide
theorem wit_DecodedIsWellFormed :
    (Draw.other 0x10).wf = true ∧
    decode (.engine (sBus .addr 0).engineFlags (.other 0x10)) = .ok (.eByte (.other 0x10)) := by decide
theorem wit_IgnoredWrites :
    (1 ≤ (0x01 : RegIndex).toNat ∧ (0x0F : RegIndex).toNat ≤ 15) ∧ 21 ≤ (0x15 : RegIndex).toNat ∧
    21 ≤ (0x1F : RegIndex).toNat ∧
    (at1 s0 (.reg (Access.wr 0x0F 5))).inputs = .reg (Access.wr 0x0F 5) :: [] := by decide
theorem wit_BadAccessFaults :
    ((⟨true, 2, 0x04, 0⟩ : Access).size ≠ 4 ∨ (⟨true, 2, 0x04, 0⟩ : Access).offset.toNat % 4 ≠ 0) ∧
    ((⟨false, 4, 0x7E, 0⟩ : Access).offset.toNat % 4 ≠ 0) ∧
    (at1 s0 (.reg ⟨true, 2, 0x04, 0⟩)).inputs = .reg ⟨true, 2, 0x04, 0⟩ :: [] := by decide
theorem wit_AbsoluteAccess_badLoad :
    (at1 s0 (.load 0x4000007F 1)).inputs = .load 0x4000007F 1 :: [] ∧
    (0x4000007F : Word).toNat < s0.build.base + 128 ∧
    s0.build.base < (0x4000007F : Word).toNat + 1 ∧ 0 < 1 ∧ (1 ≠ 4 ∨ (0x4000007F : Word).toNat % 4 ≠ 0) := by
  decide
theorem wit_AbsoluteAccess_badStore :
    (at1 s0 (.store 0x3FFFFFFF [1, 2])).inputs = .store 0x3FFFFFFF [1, 2] :: [] ∧
    (0x3FFFFFFF : Word).toNat < s0.build.base + 128 ∧
    s0.build.base < (0x3FFFFFFF : Word).toNat + [1, 2].length ∧ 0 < [1, 2].length ∧
    ([1, 2].length ≠ 4 ∨ (0x3FFFFFFF : Word).toNat % 4 ≠ 0) := by decide
theorem wit_AbsoluteAccessIsOffsetAccess :
    s0.build.base % 4 = 0 ∧ (0x4000007C : Word).toNat = s0.build.base + (0x7C : BitVec 7).toNat ∧
    (0x7C : BitVec 7).toNat % 4 = 0 ∧
    decode (.access ⟨false, 4, 0x7C, 0⟩) = .ok (.hostRd 0x1F) ∧
    (at1 s0 (.load 0x4000007C 4)).inputs = .load 0x4000007C 4 :: [] ∧
    (0x04030201 : Word).toNat = (1 : Byte).toNat + 256 * (2 : Byte).toNat + 65536 * (3 : Byte).toNat +
      16777216 * (4 : Byte).toNat ∧
    decode (.access ⟨true, 4, 0x7C, 0x04030201⟩) = .ok (.hostWrIgn 0x1F 0x04030201) ∧
    (at1 s0 (.store 0x4000007C [1, 2, 3, 4])).inputs = .store 0x4000007C [1, 2, 3, 4] :: [] := by decide
theorem wit_CommandWordSelectsByLowBits :
    (0xABCD0001 : Word).toNat % 16 = 1 ∧ (0xFFFFFFF2 : Word).toNat % 16 = 2 ∧
    (0xFFFFFFF0 : Word).toNat % 16 ≠ 1 ∧ (0xFFFFFFF0 : Word).toNat % 16 ≠ 2 ∧
    (0x0000000F : Word).toNat % 16 = (0xFFFFFFFF : Word).toNat % 16 := by decide
theorem wit_InitEffect_refused : sBusy.busy = true := by decide
theorem wit_InitEffect_zero : s0.busy = false ∧ s0.argFreq.toNat = 0 := by decide
/-- 95_test_vectors.md 2.1: 12 500 001 Hz gives a low period of 0, 190 Hz a high period of 65 790. -/
theorem wit_InitEffect_range :
    let s := { s0 with argFreq := 12500001 }
    let u := { s0 with argFreq := 190 }
    (s.busy = false ∧ 0 < s.argFreq.toNat ∧ 0 * (2 * s.argFreq.toNat) ≤ s.build.pclk ∧
      s.build.pclk < (0 + 1) * (2 * s.argFreq.toNat) ∧ s.build.pclk ≤ 2 * s.argFreq.toNat ∧
      2 * s.argFreq.toNat < s.build.pclk + s.argFreq.toNat ∧ (0 = 0 ∨ 65535 < 2 - 0)) ∧
    (u.busy = false ∧ 0 < u.argFreq.toNat ∧ 65789 * (2 * u.argFreq.toNat) ≤ u.build.pclk ∧
      u.build.pclk < (65789 + 1) * (2 * u.argFreq.toNat) ∧ u.build.pclk ≤ 131579 * u.argFreq.toNat ∧
      131579 * u.argFreq.toNat < u.build.pclk + u.argFreq.toNat ∧ (65789 = 0 ∨ 65535 < 131579 - 65789)) := by
  decide
/-- 95_test_vectors.md 2.1: 191 Hz and 12.5 MHz are the ends of the accepted range. -/
theorem wit_InitEffect_accepted :
    let s := { s0 with argFreq := 191 }
    let u := { s0 with argFreq := 12500000 }
    (65445 * (2 * s.argFreq.toNat) ≤ s.build.pclk ∧ s.build.pclk < (65445 + 1) * (2 * s.argFreq.toNat) ∧
      s.build.pclk ≤ 130891 * s.argFreq.toNat ∧ 130891 * s.argFreq.toNat < s.build.pclk + s.argFreq.toNat ∧
      0 < 65445 ∧ 130891 - 65445 ≤ 65535) ∧
    (1 * (2 * u.argFreq.toNat) ≤ u.build.pclk ∧ u.build.pclk < (1 + 1) * (2 * u.argFreq.toNat) ∧
      u.build.pclk ≤ 2 * u.argFreq.toNat ∧ 2 * u.argFreq.toNat < u.build.pclk + u.argFreq.toNat ∧
      0 < 1 ∧ 2 - 1 ≤ 65535) := by decide
theorem wit_DividerShape :
    s0.busy = false ∧ 0 < ({ s0 with argFreq := 382 } : State).argFreq.toNat ∧
    divOutOfRange s0.build.pclk ({ s0 with argFreq := 382 } : State).argFreq.toNat = false := by decide
theorem wit_XferAccepted :
    let s := { s0 with argAddr := 0x7F, argBuf := 0xFFFFFFF0, argLen := 0x10 }
    s.busy = false ∧ s.argLen.toNat ≠ 4294967295 ∧ s.argBuf.toNat + s.argLen.toNat ≤ 2 ^ 32 ∧
    (0xFE : Byte).toNat = 2 * s.argAddr.toNat ∧ (0xFFFFFFF2 : Word).toNat % 16 = 2 := by decide
theorem wit_XferNotAccepted :
    sBusy.busy = true ∧ s0.busy = false ∧ ({ s0 with argLen := 0xFFFFFFFF } : State).argLen.toNat = 4294967295 ∧
    ({ s0 with argLen := 0x11 } : State).argLen.toNat ≠ 4294967295 ∧
    2 ^ 32 < ({ s0 with argBuf := 0xFFFFFFF0 } : State).argBuf.toNat + ({ s0 with argLen := 0x11 } : State).argLen.toNat := by
  decide
theorem wit_ServiceDispatch :
    (at1 (sEvent 0x18) .service).inputs = .service :: [] ∧ s0.si = false ∧
    ({ sEvent 0x18 with irqEn := false } : State).irqEn = false ∧ (sEvent 0x18).si = true ∧
    (sEvent 0x18).irqEn = true ∧ (sEvent 0x08).stat = 0x08 ∧ (sEvent 0x18).stat = 0x18 ∧
    (sEvent 0x20).stat = 0x20 ∧ (sEvent 0x28).stat = 0x28 ∧ (sEvent 0x30).stat = 0x30 ∧
    bld.ignoreDataNack = false ∧ bldIgnore.ignoreDataNack = true ∧ (sEvent 0x38).stat = 0x38 ∧
    (sEvent 0xF8).stat ∉ [(0x08 : Byte), 0x18, 0x20, 0x28, 0x30, 0x38] := by decide
theorem wit_StartSentEffect : (sEvent 0x08).si = true ∧ (sEvent 0x08).irqEn = true ∧ (sEvent 0x08).stat = 0x08 := by
  decide
theorem wit_AddrAckEffect :
    (sEvent 0x18).si = true ∧ (sEvent 0x18).irqEn = true ∧ (sEvent 0x18).stat = 0x18 ∧
    (sEvent 0x18).cursor.toNat < (sEvent 0x18).length.toNat ∧
    (sEvent 0x18).mem.read (sEvent 0x18).bufbase.toNat = some 0x11 ∧
    ({ sEvent 0x18 with length := 0 } : State).length.toNat ≤ (sEvent 0x18).cursor.toNat := by decide
theorem wit_AddrNackEffect : (sEvent 0x20).si = true ∧ (sEvent 0x20).irqEn = true ∧ (sEvent 0x20).stat = 0x20 := by
  decide
theorem wit_DataAckEffect :
    let s := { sEvent 0x28 with cursor := 1 }
    s.si = true ∧ s.irqEn = true ∧ s.stat = 0x28 ∧ (2 : Word).toNat = s.cursor.toNat + 1 ∧
    (2 : Word).toNat < s.length.toNat ∧ s.bufbase.toNat + (2 : Word).toNat < 2 ^ 32 ∧
    s.mem.read (s.bufbase.toNat + (2 : Word).toNat) = some 0x33 ∧
    (3 : Word).toNat = ({ s with cursor := 2 } : State).cursor.toNat + 1 ∧ s.length.toNat ≤ (3 : Word).toNat := by
  decide
theorem wit_DataNackStrictEffect :
    (sEvent 0x30).si = true ∧ (sEvent 0x30).irqEn = true ∧ (sEvent 0x30).stat = 0x30 ∧
    (sEvent 0x30).build.ignoreDataNack = false := by decide
theorem wit_DataNackIgnoreEffect :
    let s := { sEvent 0x30 with cursor := 1, build := bldIgnore }
    s.si = true ∧ s.irqEn = true ∧ s.stat = 0x30 ∧ s.build.ignoreDataNack = true ∧
    (2 : Word).toNat = s.cursor.toNat + 1 ∧ (2 : Word).toNat < s.length.toNat ∧
    s.bufbase.toNat + (2 : Word).toNat < 2 ^ 32 ∧
    s.mem.read (s.bufbase.toNat + (2 : Word).toNat) = some 0x33 ∧
    (3 : Word).toNat = ({ s with cursor := 2 } : State).cursor.toNat + 1 ∧ s.length.toNat ≤ (3 : Word).toNat := by
  decide
theorem wit_AdvancePastTopUsesFreeValue :
    let s := { sEvent 0x28 with cursor := 0xFFFFFFFF }
    let u := { sEvent 0x30 with cursor := 0xFFFFFFFF, build := bldIgnore }
    s.si = true ∧ s.irqEn = true ∧ s.cursor = 0xFFFFFFFF ∧ s.stat = 0x28 ∧ u.stat = 0x30 ∧
    u.build.ignoreDataNack = true ∧ ∃ c, c = Config.cursorPastTop s.length :=
  ⟨rfl, rfl, rfl, rfl, rfl, rfl, _, rfl⟩
theorem wit_ArbLostEffect : (sEvent 0x38).si = true ∧ (sEvent 0x38).irqEn = true ∧ (sEvent 0x38).stat = 0x38 := by
  decide
theorem wit_OtherChangesNothing :
    (sEvent 0x10).si = true ∧ (sEvent 0x10).irqEn = true ∧ (sEvent 0x10).stat = 0x10 ∧
    (0x10 : Byte) ∉ [(0x08 : Byte), 0x18, 0x20, 0x28, 0x30, 0x38] := by decide
theorem wit_UnadmittedReadIsStuck :
    let s := at1 { sEvent 0x18 with mem := [] } .service
    let u := { sEvent 0x28 with cursor := 1, mem := [(0x10000000, 0x11)] }
    s.inputs = .service :: [] ∧ s.si = true ∧ s.irqEn = true ∧ s.stat = 0x18 ∧
    s.cursor.toNat < s.length.toNat ∧ s.portRead s.bufbase.toNat = none ∧ u.stat = 0x28 ∧
    u.cursor.toNat + 1 < u.length.toNat ∧ u.portRead (u.bufbase.toNat + (u.cursor.toNat + 1)) = none ∧
    (sEvent 0x30).stat = 0x30 ∧ bldIgnore.ignoreDataNack = true := by decide
theorem wit_HandlersFrame : ∃ t, exec .svcArbLost (sEvent 0x38) = .next t ∧
    Instr.svcArbLost ∈ [Instr.svcStartSent, .svcAddrAck, .svcAddrNack, .svcDataAck, .svcDataNackStrict,
      .svcDataNackIgnore, .svcArbLost] := ⟨_, rfl, by decide⟩
theorem wit_HandlersReadOneByte : (∃ t, exec .svcAddrAck (sEvent 0x18) = .next t) ∧
    (sEvent 0x18).pendingIndex = some 0 ∧
    Memory.read [(0x10000000, 0x11)] ((sEvent 0x18).bufbase.toNat + 0) =
      (sEvent 0x18).mem.read ((sEvent 0x18).bufbase.toNat + 0) := ⟨⟨_, rfl⟩, by decide, by decide⟩
theorem wit_EngineHeld :
    (sEvent 0x08).si = true ∧ s0.en = false := by decide
theorem wit_StopEffect :
    let s := { sBus .data 0x22 with sto := true }
    s.en = true ∧ s.si = false ∧ s.sto = true ∧ s.owned = true := by decide
theorem wit_StartEffect :
    let s := { sBusy with sta := true }
    s.en = true ∧ s.si = false ∧ s.sto = false ∧ s.sta = true ∧ s.owned = false := by decide
theorem wit_ByteEffect :
    let s := sBus .start 0x4E
    s.en = true ∧ s.si = false ∧ s.sto = false ∧ s.sta = false ∧ s.owned = true ∧ s.last = .start ∧
    (sBus .addr 0x11).last = .addr ∧ (sBus .data 0x22).last = .data ∧ s.last ≠ .noPhase ∧
    s.build.arbEnv = true := by decide
theorem wit_OtherCodeReplacesEvent :
    let s := { sBusy with sta := true }
    let u := sBus .addr 0x11
    s.build.otherEnv = true ∧ s.en = true ∧ s.si = false ∧ s.sto = false ∧
    (0x48 : Byte) ∉ [(0x08 : Byte), 0x18, 0x20, 0x28, 0x30, 0x38] ∧ s.sta = true ∧ s.owned = false ∧
    u.sta = false ∧ u.owned = true ∧ u.last ≠ .noPhase ∧
    ({ s with build := bldPlain } : State).build.otherEnv = false := by decide
theorem wit_AbsentDrawsGiveNoStep : bldPlain.arbEnv = false ∧ bldPlain.otherEnv = false := by decide
theorem wit_IdleStopAndRepeatedStartEffect :
    let s := { sBusy with sto := true }
    let u := { sBus .data 0x22 with sta := true }
    s.en = true ∧ s.si = false ∧ s.sto = true ∧ s.owned = false ∧ u.en = true ∧ u.si = false ∧
    u.sto = false ∧ u.sta = true ∧ u.owned = true := by decide
theorem wit_EngineFrame : ∃ t, exec (.eByte .ack) (sBus .start 0x4E) = .next t ∧
    ∃ d, Instr.eByte .ack = .eByte d := ⟨_, rfl, _, rfl⟩
theorem wit_BufferHazardFaults :
    let s := at1 sBusy (.store 0x10000002 [0x99])
    s.inputs = .store 0x10000002 [0x99] :: [] ∧ s.busy = true ∧
    (0x10000002 : Word).toNat + [(0x99 : Byte)].length ≤ s.build.base ∧
    (0x10000002 : Word).toNat ≤ 0x10000002 ∧ 0x10000002 < (0x10000002 : Word).toNat + [(0x99 : Byte)].length ∧
    s.bufbase.toNat ≤ 0x10000002 ∧ 0x10000002 < s.bufbase.toNat + s.length.toNat := by decide
theorem wit_HostWriteLands :
    let s := at1 sBusy (.store 0x10000003 [0x99])
    s.inputs = .store 0x10000003 [0x99] :: [] ∧ s.mem.wf = true ∧ (0x10000003 : Word).toNat + [(0x99 : Byte)].length ≤ s.build.base ∧
    s.bufbase.toNat + s.length.toNat ≤ (0x10000003 : Word).toNat ∧ s0.busy = false ∧
    (0x0FFFFFFF : Word).toNat + [(0x99 : Byte)].length ≤ s.bufbase.toNat ∧
    s.build.base + 128 ≤ (0x40000080 : Word).toNat ∧
    (0x10000003 : Word).toNat + [(0x99 : Byte)].length ≤ 2 ^ 32 ∧
    2 ^ 32 < (0xFFFFFFFF : Word).toNat + [(1 : Byte), 2].length := by decide
theorem wit_MemoryStaysCanonical : (at1 sBusy (.store 0x10000003 [0x99])).mem.wf = true ∧
    ∃ t, step (at1 sBusy (.store 0x10000003 [0x99])) = .next t := ⟨by decide, _, rfl⟩
theorem wit_FaultMarkNeverCleared :
    let s := at1 { s0 with faultMark := some .xferLen } (.reg ⟨true, 1, 0, 0⟩)
    s.faultMark = some .xferLen ∧ ∃ t, step s = .next t := ⟨by decide, _, rfl⟩
theorem wit_FaultingStepChangesNoRegister : ∃ t, exec .init s0 = .next t ∧ t.faultMark ≠ s0.faultMark :=
  ⟨_, rfl, by decide⟩

/-- The state before the start event is serviced. -/
def sStart : State := { sEvent 0x08 with owned := true, last := .start, sta := true }
/-- The address byte answered with code `c`. -/
def sAddr (c : Byte) : State := { sEvent c with owned := true, last := .addr, dat := 0x4E }
/-- Data byte 1 answered with code `c`. -/
def sData (c : Byte) : State := { sEvent c with owned := true, last := .data, cursor := 1, dat := 0x22 }

theorem wit_Inv_start : Inv sStart := by constructor <;> decide
theorem wit_Inv_addr : Inv (sAddr 0x18) ∧ Inv (sAddr 0x20) := by constructor <;> constructor <;> decide
theorem wit_Inv_data : Inv (sData 0x28) ∧ Inv (sData 0x30) := by constructor <;> constructor <;> decide
theorem wit_Inv_arb : Inv (sEvent 0x38) := by constructor <;> decide
/-- Invariant and step together, for EveryStepKeepsInvariant. -/
theorem wit_EveryStepKeepsInvariant : Inv (at1 (sData 0x28) .service) ∧
    ∃ t, step (at1 (sData 0x28) .service) = .next t := ⟨by constructor <;> decide, _, rfl⟩
theorem wit_EventsBelongToTheTransaction :
    sStart.si = true ∧ sStart.stat = 0x08 ∧ (sAddr 0x18).stat = 0x18 ∧ (sAddr 0x20).stat = 0x20 ∧
    (sData 0x28).stat = 0x28 ∧ (sData 0x28).clean = true ∧ (sData 0x30).stat = 0x30 ∧ (sEvent 0x38).stat = 0x38 := by
  decide

/-- INIT at 1 MHz, a zero-length XFER, the start, and the address answered with NACK. -/
def sched : List Input :=
  [.reg (Access.wr 0x10 1000000), .reg (Access.wr 0x00 1), .reg (Access.wr 0x00 2), .engine .ack, .service,
   .engine .nack, .service]

theorem wit_Reachable_byte : ∃ s : State, s.Reachable ∧ s.owned = true ∧ s.last ≠ .noPhase ∧
    engineSelect s.engineFlags .ack = some (.eByte .ack) :=
  ⟨_, ⟨bld, [], [], sched, 5, rfl, rfl⟩, by decide, by decide, by decide⟩
theorem wit_Reachable_ended : ∃ s : State, s.Reachable ∧ s.owned = true ∧ s.busy = false :=
  ⟨_, ⟨bld, [], [], sched, 7, rfl, rfl⟩, by decide, by decide⟩
theorem wit_ContextOwnership : sBusy.busy = true ∧ (0xFFFFFFF2 : Word).toNat % 16 = 2 ∧
    (∃ t, step (at1 sBusy (.reg (Access.wr 0x00 2))) = .next t) ∧
    ∃ t, step (at1 { s0 with argLen := 2 } (.reg (Access.wr 0x00 2))) = .next t ∧ t.length ≠ s0.length :=
  ⟨by decide, by decide, ⟨_, rfl⟩, _, rfl, by decide⟩
theorem wit_OnlyTerminalStepsEndATransaction : ∃ t u v,
    step (at1 (sAddr 0x20) .service) = .next t ∧ t.result ≠ (sAddr 0x20).result ∧
    step (at1 { sData 0x28 with cursor := 2 } .service) = .next u ∧ u.busy = false ∧
    step (at1 (sEvent 0x38) .service) = .next v ∧ v.busy = false :=
  ⟨_, _, _, rfl, by decide, rfl, by decide, rfl, by decide⟩
theorem wit_CursorMovesOnlyByService : Inv (at1 (sData 0x28) .service) ∧ (sData 0x28).busy = true ∧
    ∃ t, step (at1 (sData 0x28) .service) = .next t ∧ t.cursor ≠ (sData 0x28).cursor :=
  ⟨by constructor <;> decide, by decide, _, rfl, by decide⟩
theorem wit_EnablesAndBuildAreKept : sBusy.en = true ∧ sBusy.irqEn = true ∧
    ∃ t, step (at1 sBusy (.reg (Access.wr 0x00 1))) = .next t := ⟨by decide, by decide, _, rfl⟩
theorem wit_UnrecognisedCodeHangs : (sEvent 0x10).busy = true ∧ (sEvent 0x10).si = true ∧
    Config.recognised (sEvent 0x10).stat = false ∧
    ∃ t, Host.Core.run Sys2Proof.core 1 (at1 (sEvent 0x10) .service) = .next t :=
  ⟨by decide, by decide, by decide, _, rfl⟩
theorem wit_XferBeforeInitHangs : s0.busy = false ∧ s0.en = false ∧ s0.irqEn = false ∧
    s0.argLen.toNat ≠ 4294967295 ∧ s0.argBuf.toNat + s0.argLen.toNat ≤ 2 ^ 32 ∧
    ∃ u t, exec .xfer (at1 s0 (.engine .ack)) = .next u ∧ Host.Core.run Sys2Proof.core 1 u = .next t :=
  ⟨by decide, by decide, by decide, by decide, by decide, _, _, rfl, rfl⟩

/-- A start request that waits, the schedule giving the FSM every turn: the stuck bus of 60_exceptions.md R207 (c). -/
def stuckBus (progress : Bool) : Execution where
  turn _ := .service
  state _ := { sBusy with sta := true, build := { bld with engineProgress := progress } }
  steps _ := rfl

theorem test_stuckBus_fair : (stuckBus false).Fair where
  fsm := fun n h => ⟨n, le_refl n, rfl⟩
  host := fun k n h => absurd (h n (le_refl n)) (by simp [State.contextInstr, stuckBus, sBusy, s0, State.launch])
  engine := fun h => by cases h
theorem test_progress_excludes_stuckBus : ¬ (stuckBus true).Fair := by
  intro h
  obtain ⟨m, _, _, d, hd, _⟩ := h.engine rfl EngineFlags.startOk (by simp) 0 (fun _ _ => rfl)
  cases hd

/-- A transfer of one byte armed, with these answers scheduled. -/
def sReady (ds : List Draw) : State := { sBusy with length := 1, sta := true, inputs := scriptOf ds ++ [] }

theorem wit_ReadyToStart : ReadyToStart (sReady [.ack, .ack, .ack]) := by constructor <;> decide
theorem wit_AcknowledgedTransferReturnsLength :
    let s := { sReady [.ack, .ack, .nack] with build := bldIgnore }
    [Draw.nack].length = s.length.toNat ∧ [(0x11 : Byte)].length = s.length.toNat ∧
    (∀ i, i < s.length.toNat → s.bufferByte i = [(0x11 : Byte)][i]?) ∧
    (∀ d ∈ [Draw.nack], d = .ack ∨ (d = .nack ∧ s.build.ignoreDataNack = true)) ∧
    s.inputs = scriptOf (.ack :: .ack :: [.nack]) ++ [] := by decide
theorem wit_AddressNackReturnsSentinel :
    ReadyToStart (sReady [.ack, .nack]) ∧ (sReady [.ack, .nack]).inputs = scriptOf [.ack, .nack] ++ [] :=
  ⟨by constructor <;> decide, by decide⟩
theorem wit_StrictNackReturnsIndex :
    let s := { sReady [.ack, .ack, .nack] with length := 3 }
    ReadyToStart s ∧ s.build.ignoreDataNack = false ∧ 0 < s.length.toNat ∧ s.bufferAdmitted (0 + 1) ∧
    s.inputs = scriptOf (.ack :: .ack :: (List.replicate 0 .ack ++ [.nack])) ++ [] :=
  ⟨by constructor <;> decide, by decide, by decide, by decide, by decide⟩
theorem wit_PendingStopComesBeforeStart :
    let s := { sBus .data 0x22 with sto := true, sta := true, inputs := [.engine .ack, .engine .ack] }
    s.en = true ∧ s.si = false ∧ s.sto = true ∧ s.sta = true ∧ s.owned = true ∧
    s.inputs = .engine .ack :: .engine .ack :: [] := by decide
theorem wit_RefusedTransferReturnsZero :
    let s := { sBusy with
                 contexts := [⟨opsTransfer 0 1 0x11 0x20000000 5, []⟩]
                 inputs := [.turn 0, .turn 0, .turn 0, .turn 0, .turn 0] }
    s.busy = true ∧ s.contexts = [{ prog := opsTransfer 0 1 0x11 0x20000000 5, vars := [] }] ∧
    s.inputs = .turn 0 :: .turn 0 :: .turn 0 :: .turn 0 :: .turn 0 :: [] := by decide

/-- 95_test_vectors.md W1 for one byte: the bus carries SLA and the byte, and RESULT = 1. -/
theorem test_one_byte_transfer :
    next (Host.Core.run Sys2Proof.core 6 (sReady [.ack, .ack, .ack]))
      (fun t => t.result == 1 && !t.busy && t.sto &&
        t.wire == [.byte 0x11 .ack, .byte 0x4E .ack, .start]) = true := by decide
/-- 95_test_vectors.md W4: the second `transfer` gets 0 and the context is untouched. -/
theorem test_refused_transfer :
    next (Host.Core.run Sys2Proof.core 5
        { sBusy with contexts := [⟨opsTransfer 0 1 0x11 0x20000000 5, []⟩], inputs := List.replicate 5 (.turn 0) })
      (fun t => t.contexts == [⟨[], [1, 0]⟩] && t.sla == 0x4E && t.length == 3 && t.argLen == 5) = true := by
  decide

end Sys2Proof.Tests.Slice0
end

/-!
SUPPORT. What each kind of turn amounts to, what becomes of a turn that runs an instruction and of one that is
idle, and the two obligations about turns (00_scope.md R4, R5, R12).
-/
namespace Sys2Proof.Machine

/-! ### What a turn amounts to -/

theorem decode_engine_eq_ok {f : EngineFlags} {d : Draw} {i : Instr} (h : decode (.engine f d) = .ok i) :
    engineSelect f d = some i := by
  cases hsel : engineSelect f d with
  | none => simp [decode, hsel] at h
  | some j => simpa [decode, hsel] using h

theorem decode_engine_eq_error {f : EngineFlags} {d : Draw} {r : Reject}
    (h : decode (.engine f d) = .error r) : engineSelect f d = none := by
  cases hsel : engineSelect f d with
  | none => rfl
  | some j => simp [decode, hsel] at h

theorem State.action_reg_of_decode (s : State) {a : Access} {i : Instr} (h : decode (.access a) = .ok i) :
    s.action (.reg a) = .run i := by
  have hdec : decodeAccess a = .ok i := h
  simp [State.action, accessAction, hdec]

theorem State.action_engine_of_decode {s : State} {d : Draw} {i : Instr}
    (h : decode (.engine s.engineFlags d) = .ok i) : s.action (.engine d) = .run i := by
  simp [State.action, decode_engine_eq_ok h, actionOf]

theorem State.action_engine_idle {s : State} {d : Draw} {r : Reject}
    (h : decode (.engine s.engineFlags d) = .error r) : s.action (.engine d) = .idle := by
  simp [State.action, decode_engine_eq_error h, actionOf]

theorem State.action_service_of_pending {s : State} (hsi : s.si = true) (hirq : s.irqEn = true) :
    s.action .service = .run (decodeStatus s.build.ignoreDataNack s.stat) := by
  simp [State.action, State.fsmSelect, hsi, hirq, actionOf]

theorem State.action_service_idle {s : State} (h : s.si = false ∨ s.irqEn = false) :
    s.action .service = .idle := by
  rcases h with h | h <;> simp [State.action, State.fsmSelect, h, actionOf]

theorem State.action_turn_of_no_context {s : State} {k : Nat} (hc : s.contexts[k]? = none) :
    s.action (.turn k) = .idle := by
  simp [State.action, State.contextInstr, hc, actionOf]

theorem State.action_turn_of_finished {s : State} {k : Nat} {c : HostContext}
    (hc : s.contexts[k]? = some c) (hprog : c.prog = []) : s.action (.turn k) = .idle := by
  simp [State.action, State.contextInstr, hc, hprog, actionOf]

theorem State.action_turn_of_next_op {s : State} {k : Nat} {c : HostContext} {op : HostOp}
    {ops : List HostOp} (hc : s.contexts[k]? = some c) (hprog : c.prog = op :: ops) :
    s.action (.turn k) = .run op.instr := by
  simp [State.action, State.contextInstr, hc, hprog, actionOf]

/-! ### How a host context moves on -/

theorem State.advanceContext_of_some {s : State} {k : Nat} {c : HostContext}
    (hc : s.contexts[k]? = some c) :
    s.advanceContext k = { s with contexts := s.contexts.set k (c.advance s.rdData) } := by
  simp [State.advanceContext, hc]

theorem State.advanceContext_of_none {s : State} {k : Nat} (hc : s.contexts[k]? = none) :
    s.advanceContext k = s := by
  simp [State.advanceContext, hc]

theorem HostContext.advance_of_finished {c : HostContext} (hprog : c.prog = []) (v : Word) :
    c.advance v = c := by
  simp [HostContext.advance, hprog]

/-- A context whose program has ended stays as it is. -/
theorem State.advanceContext_of_finished {s : State} {k : Nat} {c : HostContext}
    (hc : s.contexts[k]? = some c) (hprog : c.prog = []) : s.advanceContext k = s := by
  obtain ⟨hk, hget⟩ := List.getElem?_eq_some_iff.mp hc
  have hset : s.contexts.set k c = s.contexts := by rw [← hget, List.set_getElem_self]
  rw [State.advanceContext_of_some hc, HostContext.advance_of_finished hprog, hset]

/-- Instructions are steps of the block: the host contexts are no part of it. -/
theorem Effect.contexts_eq {s t : State} {i : Instr} (h : Effect s i t) : t.contexts = s.contexts := by
  cases h <;> rfl

theorem exec_contexts {i : Instr} {s t : State} (h : exec i s = .next t) : t.contexts = s.contexts :=
  (effect_of_exec h).contexts_eq

/-! ### The step a turn makes -/

/-- Only the turn of a host context has something left to do after its action. -/
theorem finishTurn_of_ne_turn {inp : Input} (h : ∀ k, inp ≠ .turn k)
    (o : Host.Outcome State Fault Refusal) : finishTurn inp o = o := by
  cases inp with
  | turn k => exact absurd rfl (h k)
  | _ => rfl

section
variable {s : State} {inp : Input} {rest : List Input}

/-- `step_cons` with the action read off the state before the turn is taken off the schedule. -/
theorem step_eq_finishTurn (hin : s.inputs = inp :: rest) :
    step s = finishTurn inp (runAction (s.action inp) { s with inputs := rest }) := by
  rw [step_cons hin, runInput, State.action_inputs]

theorem step_of_run {i : Instr} (hin : s.inputs = inp :: rest) (hturn : ∀ k, inp ≠ .turn k)
    (hact : s.action inp = .run i) : step s = exec i { s with inputs := rest } := by
  rw [step_eq_finishTurn hin, finishTurn_of_ne_turn hturn, hact, runAction]

theorem step_of_idle (hin : s.inputs = inp :: rest) (hturn : ∀ k, inp ≠ .turn k)
    (hact : s.action inp = .idle) : step s = .next { s with inputs := rest } := by
  rw [step_eq_finishTurn hin, finishTurn_of_ne_turn hturn, hact, runAction]

/-- The turn of a host context whose action completes: the context then moves on. -/
theorem step_of_turn {k : Nat} {t : State} (hin : s.inputs = .turn k :: rest)
    (hrun : runAction (s.action (.turn k)) { s with inputs := rest } = .next t) :
    step s = .next (t.advanceContext k) := by
  rw [step_eq_finishTurn hin, hrun, finishTurn]

theorem step_of_next_op {k : Nat} {c : HostContext} {op : HostOp} {ops : List HostOp} {t : State}
    (hin : s.inputs = .turn k :: rest) (hc : s.contexts[k]? = some c) (hprog : c.prog = op :: ops)
    (hexec : exec op.instr { s with inputs := rest } = .next t) :
    step s = .next { t with contexts := t.contexts.set k (c.advance t.rdData) } := by
  have hct : t.contexts[k]? = some c := by rw [exec_contexts hexec, hc]
  rw [step_of_turn hin (by rw [State.action_turn_of_next_op hc hprog, runAction, hexec]),
    State.advanceContext_of_some hct]

theorem step_of_idle_turn {k : Nat} (hin : s.inputs = .turn k :: rest) (hact : s.action (.turn k) = .idle)
    (hstay : ({ s with inputs := rest } : State).advanceContext k = { s with inputs := rest }) :
    step s = .next { s with inputs := rest } := by
  rw [step_of_turn hin (by rw [hact, runAction]), hstay]

end

/-! ### The obligations -/

/-- Settles O2: each kind of turn amounts to the run of what its code decodes to, and a host context is
untouched by its access when it moves on. -/
theorem stepRunsDecodedInstruction : Obligations.StepRunsDecodedInstruction := by
  intro s rest i _
  refine ⟨?access, ?service, ?engine, ?context⟩
  case access =>
    intro a hin hdec
    exact step_of_run hin nofun (s.action_reg_of_decode hdec)
  case service =>
    intro hin hsi hirq hdec
    cases hdec
    exact step_of_run hin nofun (State.action_service_of_pending hsi hirq)
  case engine =>
    intro d hin hdec
    exact step_of_run hin nofun (State.action_engine_of_decode hdec)
  case context =>
    rintro k c op ops t hin hc hprog rfl hexec
    exact step_of_next_op hin hc hprog hexec

/-- Settles O3: a turn with no enabled step is idle, and a context that is absent or at its end has nothing to
move on to. -/
theorem turnWithoutStepChangesNothing : Obligations.TurnWithoutStepChangesNothing := by
  intro s rest
  refine ⟨step_nil, ?service, ?engine, ?noContext, ?finished⟩
  case service =>
    intro hin hoff
    exact step_of_idle hin nofun (State.action_service_idle hoff)
  case engine =>
    intro d hin hdec
    exact step_of_idle hin nofun (State.action_engine_idle hdec)
  case noContext =>
    intro k hin hc
    exact step_of_idle_turn hin (State.action_turn_of_no_context hc) (State.advanceContext_of_none hc)
  case finished =>
    intro k c hin hc hprog
    exact step_of_idle_turn hin (State.action_turn_of_finished hc hprog)
      (State.advanceContext_of_finished hc hprog)

end Sys2Proof.Machine

/-!
SUPPORT. What a turn can do to the registers, field by field, and the obligations about who may change the
transaction context, BUSY and RESULT, CURSOR, the enables, the build and the fault mark (10_state.md).
-/
namespace Sys2Proof.Machine

/-! ### Which turns run which instructions -/

/-- The instruction is a handler of the event FSM (41_event_fsm.md R142 to R149). -/
def IsHandler : Instr → Bool
  | .svcStartSent | .svcAddrAck | .svcAddrNack | .svcDataAck | .svcDataNackStrict => true
  | .svcDataNackIgnore | .svcArbLost | .svcOther _ => true
  | _ => false

theorem isCommand_decodeStatus (ignoreDataNack : Bool) (c : Byte) :
    IsCommand (decodeStatus ignoreDataNack c) = false := by
  unfold decodeStatus
  repeat' split
  all_goals rfl

/-- The engine runs its own steps, no handler and no command (42_bus_engine.md R172). -/
theorem kind_of_engineSelect {f : EngineFlags} {d : Draw} {i : Instr}
    (h : engineSelect f d = some i) : IsHandler i = false ∧ IsCommand i = false := by
  unfold engineSelect at h
  repeat' split at h
  all_goals cases h
  all_goals exact ⟨rfl, rfl⟩

/-- The host port runs no handler, and of the commands the CMD write alone (40_host_interface.md R114). -/
theorem kind_of_isHostPort {i : Instr} (h : IsHostPort i = true) :
    IsHandler i = false ∧ (IsCommand i = true → ∃ w, i = .hostWrCmd w) := by
  cases i <;> simp_all [IsHostPort, IsHandler, IsCommand]

/-- Handlers run in the FSM's turn only. -/
theorem State.action_run_handler {s : State} {inp : Input} {i : Instr} (h : s.action inp = .run i)
    (hi : IsHandler i = true) : inp = .service := by
  rcases State.action_run h with hport | ⟨hinp, _⟩ | ⟨d, _, hsel⟩
  · simp [(kind_of_isHostPort hport).1] at hi
  · exact hinp
  · simp [(kind_of_engineSelect hsel).1] at hi

/-- A turn that runs a command is a CMD write. -/
theorem State.action_run_command {s : State} {inp : Input} {i : Instr} (h : s.action inp = .run i)
    (hi : IsCommand i = true) : ∃ w, i = .hostWrCmd w := by
  rcases State.action_run h with hport | ⟨_, _, _, rfl⟩ | ⟨d, _, hsel⟩
  · exact (kind_of_isHostPort hport).2 hi
  · simp [isCommand_decodeStatus] at hi
  · simp [(kind_of_engineSelect hsel).2] at hi

theorem Advances.isHandler {s : State} {i : Instr} (h : Advances s i) : IsHandler i = true := by
  rcases h with ⟨rfl, _⟩ | ⟨rfl, _⟩ <;> rfl

/-- An advancing handler services one of the two data codes. -/
theorem Advances.stat_eq {s : State} {i : Instr} (h : Advances s i) :
    s.stat = Config.dataAck ∨ s.stat = Config.dataNack :=
  h.imp And.right fun hignore => hignore.2.1

/-! ### XFER and the words that select it -/

theorem decodeCommand_eq_xfer_iff (w : Word) : decodeCommand w = .xfer ↔ w.toNat % 16 = 2 := by
  have hop : commandOp w = 0x2 ↔ w.toNat % 16 = 2 := by
    rw [← BitVec.toNat_inj, commandOp_toNat]
    rfl
  rw [← hop]
  constructor
  · intro h
    by_contra h2
    unfold decodeCommand at h
    rw [if_neg h2] at h
    repeat' split at h
    all_goals cases h
  · intro h
    simp [decodeCommand, h]

theorem runs_xfer_iff (i : Instr) :
    Runs i .xfer ↔ i = .xfer ∨ ∃ w : Word, i = .hostWrCmd w ∧ w.toNat % 16 = 2 := by
  simp only [Runs, decodeCommand_eq_xfer_iff]

theorem exec_of_runs_xfer {i : Instr} (h : Runs i .xfer) (s : State) : exec i s = execXfer s := by
  rcases h with rfl | ⟨w, rfl, hw⟩
  · rfl
  · simp [exec, execHostWrCmd, hw]

/-- While a transaction is in flight a new request only clears CMDRESP (40_host_interface.md R117). -/
theorem execXfer_of_busy {s : State} (h : s.busy = true) :
    execXfer s = .next { s with cmdresp := false } := by
  rw [execXfer, if_pos h, State.respond]

/-! ### What an instruction can do to a register -/

section
variable {s t : State} {i : Instr}

/-- The first fault is the one kept: an instruction adds at most a later one (10_state.md R49). -/
theorem Effect.faultMark_eq (h : Effect s i t) : ∃ o, t.faultMark = s.faultMark.or o := by
  cases h with
  | fault i r => exact ⟨some r, rfl⟩
  | _ => exact ⟨none, Option.or_none.symm⟩

/-- EN and IRQ_EN are only ever set, by INIT, and the build is fixed (10_state.md R40, R41, R44). -/
theorem Effect.enables_kept (h : Effect s i t) :
    (s.en = true → t.en = true) ∧ (s.irqEn = true → t.irqEn = true) ∧ t.build = s.build := by
  cases h with
  | initDone => exact ⟨fun _ => rfl, fun _ => rfl, rfl⟩
  | _ => exact ⟨id, id, rfl⟩

/-- The transaction context has one writer, the accepted XFER (10_state.md R30). -/
theorem Effect.context_kept_or_armed (h : Effect s i t) :
    (t.sla = s.sla ∧ t.bufbase = s.bufbase ∧ t.length = s.length) ∨
    (Runs i .xfer ∧ s.busy = false ∧ t = s.arm.respond true) := by
  cases h with
  | xferDone _ hruns hbusy => exact .inr ⟨hruns, hbusy, rfl⟩
  | _ => exact .inl ⟨rfl, rfl, rfl⟩

/-- CURSOR has two writers, the accepted XFER and the advancing handlers (10_state.md R26). -/
theorem Effect.cursor_cases (h : Effect s i t) :
    t.cursor = s.cursor ∨ s.busy = false ∨ (Advances s i ∧ t.cursor = s.nextCursor) := by
  cases h with
  | xferDone _ _ hbusy => exact .inr (.inl hbusy)
  | dataEmit _ _ hadv => exact .inr (.inr ⟨hadv, rfl⟩)
  | dataEnd _ hadv => exact .inr (.inr ⟨hadv, rfl⟩)
  | _ => exact .inl rfl

end

/-! ### The end of a transaction -/

/-- A terminal service step from `s` to `t` (41_event_fsm.md R141): an enabled event with one of the codes that
can end a transaction, RESULT and BUSY written together, and stop raised unless the bus was lost. -/
structure EndsTransaction (s t : State) : Prop where
  pending : s.si = true
  enabled : s.irqEn = true
  idle : t.busy = false
  serviced : t.si = false
  outcome : (s.stat = Config.addrNack ∧ t.result = Config.sentinel) ∨
    ((s.stat = Config.addrAck ∨ s.stat = Config.dataAck ∨ s.stat = Config.dataNack ∨
      s.stat = Config.arbLost) ∧ t.result = t.cursor)
  stop : s.stat ≠ Config.arbLost → t.sto = true

section
variable {s t : State} {i : Instr}

/-- RESULT is written and BUSY is cleared by the terminal service steps only (10_state.md R27, R28). -/
theorem Effect.result_kept_or_ends (h : Effect s i t) :
    (t.result = s.result ∧ (s.busy = true → t.busy = true)) ∨
    (IsHandler i = true ∧ EndsTransaction s t) := by
  cases h with
  | addrEnd hsi hirq hstat =>
    exact .inr ⟨rfl, hsi, hirq, rfl, rfl, .inr ⟨.inl hstat, rfl⟩, fun _ => rfl⟩
  | addrNack hsi hirq hstat =>
    exact .inr ⟨rfl, hsi, hirq, rfl, rfl, .inl ⟨hstat, rfl⟩, fun _ => rfl⟩
  | dataEnd _ hadv hsi hirq =>
    have hcode := (hadv.stat_eq.imp_right .inl : _ ∨ _ ∨ s.stat = Config.arbLost)
    exact .inr ⟨hadv.isHandler, hsi, hirq, rfl, rfl, .inr ⟨.inr hcode, rfl⟩, fun _ => rfl⟩
  | dataStrict hsi hirq hstat =>
    exact .inr ⟨rfl, hsi, hirq, rfl, rfl, .inr ⟨.inr (.inr (.inl hstat)), rfl⟩, fun _ => rfl⟩
  | arbLost hsi hirq hstat =>
    exact .inr ⟨rfl, hsi, hirq, rfl, rfl, .inr ⟨.inr (.inr (.inr hstat)), rfl⟩, absurd hstat⟩
  | xferDone => exact .inl ⟨rfl, fun _ => rfl⟩
  | _ => exact .inl ⟨rfl, id⟩

/-- RESULT is read off STAT: the sentinel for ADDR_NACK, CURSOR for the other codes. -/
theorem EndsTransaction.result_by_stat (h : EndsTransaction s t) :
    (s.stat = Config.addrNack → t.result = Config.sentinel) ∧
    (s.stat ≠ Config.addrNack → t.result = t.cursor) := by
  rcases h.outcome with ⟨hnack, hresult⟩ | ⟨hcode, hresult⟩
  · exact ⟨fun _ => hresult, absurd hnack⟩
  · have hne : s.stat ≠ Config.addrNack := by
      rcases hcode with hstat | hstat | hstat | hstat <;> rw [hstat] <;> decide
    exact ⟨fun hnack => absurd hnack hne, fun _ => hresult⟩

theorem EndsTransaction.stat_cases (h : EndsTransaction s t) :
    s.stat = Config.addrAck ∨ s.stat = Config.addrNack ∨ s.stat = Config.dataAck ∨
    s.stat = Config.dataNack ∨ s.stat = Config.arbLost := by
  rcases h.outcome with ⟨hnack, _⟩ | ⟨hack | hdata, _⟩
  · exact .inr (.inl hnack)
  · exact .inl hack
  · exact .inr (.inr hdata)

end

/-! ### What a step can do to a register -/

/-- A step either ran an instruction, or left every register as it was; a fault it raised there is the first
one or is dropped (60_exceptions.md R205). -/
theorem step_run_or_registers_kept {s t : State} (h : step s = .next t) :
    (∃ inp rest i u cs, s.inputs = inp :: rest ∧ s.action inp = .run i ∧
      Effect { s with inputs := rest } i u ∧ t = { u with contexts := cs }) ∨
    ∃ o mem cs rest n, t = { s with faultMark := s.faultMark.or o, mem := mem, contexts := cs,
                                    inputs := rest, openDraws := n } := by
  rcases step_cases h with ⟨_, rfl⟩ | ⟨inp, rest, u, cs, hin, rfl, hturn⟩
  · exact .inr ⟨none, t.mem, t.contexts, t.inputs, t.openDraws, by rw [Option.or_none]⟩
  rcases hturn with ⟨i, hact, hexec⟩ | ⟨r, _, rfl⟩ | ⟨a, bs, _, rfl⟩ | ⟨a, n, _, rfl⟩ | ⟨a, n, _, rfl⟩ | ⟨_, rfl⟩
  · exact .inl ⟨inp, rest, i, u, cs, hin, hact, effect_of_exec hexec, rfl⟩
  · exact .inr ⟨some r, s.mem, cs, rest, s.openDraws, rfl⟩
  · exact .inr ⟨none, _, cs, rest, s.openDraws, by rw [Option.or_none]⟩
  · exact .inr ⟨some .bufHazard, _, cs, rest, _, rfl⟩
  · exact .inr ⟨none, _, cs, rest, _, by rw [Option.or_none]; rfl⟩
  · exact .inr ⟨none, s.mem, cs, rest, s.openDraws, by rw [Option.or_none]⟩

section
variable {s t : State}

theorem step_faultMark (h : step s = .next t) : ∃ o, t.faultMark = s.faultMark.or o := by
  rcases step_run_or_registers_kept h with ⟨_, _, _, _, _, _, _, heff, rfl⟩ | ⟨o, _, _, _, _, rfl⟩
  · exact heff.faultMark_eq
  · exact ⟨o, rfl⟩

theorem step_enables_kept (h : step s = .next t) :
    (s.en = true → t.en = true) ∧ (s.irqEn = true → t.irqEn = true) ∧ t.build = s.build := by
  rcases step_run_or_registers_kept h with ⟨_, _, _, _, _, _, _, heff, rfl⟩ | ⟨_, _, _, _, _, rfl⟩
  · exact heff.enables_kept
  · exact ⟨id, id, rfl⟩

/-- A step leaves the transaction context as it was, or is the CMD write of an accepted XFER. -/
theorem step_context_kept_or_armed (h : step s = .next t) :
    (t.sla = s.sla ∧ t.bufbase = s.bufbase ∧ t.length = s.length) ∨
    ∃ inp rest w cs, s.inputs = inp :: rest ∧ s.action inp = .run (.hostWrCmd w) ∧ w.toNat % 16 = 2 ∧
      s.busy = false ∧ t = { s.arm.respond true with contexts := cs, inputs := rest } := by
  rcases step_run_or_registers_kept h with
    ⟨inp, rest, i, u, cs, hin, hact, heff, rfl⟩ | ⟨_, _, _, _, _, rfl⟩
  · rcases heff.context_kept_or_armed with hkept | ⟨hruns, hbusy, rfl⟩
    · exact .inl hkept
    · obtain ⟨w, rfl⟩ := State.action_run_command hact (hruns.isCommand rfl)
      have hw : w.toNat % 16 = 2 := by simpa using (runs_xfer_iff _).mp hruns
      exact .inr ⟨inp, rest, w, cs, hin, hact, hw, hbusy, rfl⟩
  · exact .inl ⟨rfl, rfl, rfl⟩

/-- A step leaves RESULT and a set BUSY as they were, or is the FSM's turn that ends the transaction. -/
theorem step_result_kept_or_ends (h : step s = .next t) :
    (t.result = s.result ∧ (s.busy = true → t.busy = true)) ∨
    ((∃ rest, s.inputs = .service :: rest) ∧ EndsTransaction s t) := by
  rcases step_run_or_registers_kept h with
    ⟨inp, rest, i, u, cs, hin, hact, heff, rfl⟩ | ⟨_, _, _, _, _, rfl⟩
  · rcases heff.result_kept_or_ends with hkept | ⟨hhandler, hend⟩
    · exact .inl hkept
    · obtain rfl := State.action_run_handler hact hhandler
      exact .inr ⟨⟨rest, hin⟩, { hend with }⟩
  · exact .inl ⟨rfl, id⟩

/-- In a transaction a step leaves CURSOR as it was, or is the FSM's turn of an advancing handler. -/
theorem step_cursor_kept_or_advances (hbusy : s.busy = true) (h : step s = .next t) :
    t.cursor = s.cursor ∨
    ∃ rest i, s.inputs = .service :: rest ∧ Advances s i ∧ t.cursor = s.nextCursor := by
  rcases step_run_or_registers_kept h with
    ⟨inp, rest, i, u, cs, hin, hact, heff, rfl⟩ | ⟨_, _, _, _, _, rfl⟩
  · rcases heff.cursor_cases with hkept | hidle | ⟨hadv, hcursor⟩
    · exact .inl hkept
    · simp [hbusy] at hidle
    · obtain rfl := State.action_run_handler hact hadv.isHandler
      exact .inr ⟨rest, i, hin, hadv, hcursor⟩
  · exact .inl rfl

end

/-! ### The state at launch -/

theorem State.cfgWord_toNat (s : State) : s.cfgWord.toNat = s.build.ignoreDataNack.toNat := by
  unfold State.cfgWord
  cases s.build.ignoreDataNack <;> rfl

/-- The invariant at launch: no transaction, nothing pending, and the bus not owned. -/
theorem inv_launch (build : Build) (mem : Memory) (contexts : List HostContext) (inputs : List Input) :
    Inv (State.launch build mem contexts inputs) where
  cursor_le := Nat.le_refl _
  length_lt := Nat.zero_lt_succ _
  buffer_fits := Nat.zero_le _
  sla_write := by simp [State.launch]
  owned_iff := by simp [State.launch]
  irq_en := rfl
  aa_clear := rfl
  active_en := by simp [State.launch]
  idle_quiet := fun _ => ⟨rfl, rfl⟩
  idle_owned := fun _ => nofun
  stop_pending := nofun
  start_pending := nofun
  event_pending := nofun
  byte_ready := nofun

/-! ### The obligations -/

/-- Settles O44: a step only adds a fault behind the mark that stands. -/
theorem faultMarkNeverCleared : Obligations.FaultMarkNeverCleared := by
  intro s t r hmark h
  obtain ⟨o, ho⟩ := step_faultMark h
  rw [ho, hmark, Option.some_or]

/-- Settles O50: the context's one writer is the accepted XFER, which BUSY = 1 rules out. -/
theorem contextOwnership : Obligations.ContextOwnership := by
  intro s t h
  refine ⟨?armed, ?kept, ?refused⟩
  case armed =>
    intro hchange
    rcases step_context_kept_or_armed h with ⟨hsla, hbuf, hlen⟩ | ⟨inp, rest, w, cs, hin, hact, hw, hbusy, rfl⟩
    · simp [hsla, hbuf, hlen] at hchange
    · exact ⟨inp, rest, w, hin, hact, hw, hbusy, rfl, rfl, rfl, slaByte_toNat s.argAddr, rfl, rfl⟩
  case kept =>
    intro hbusy
    rcases step_context_kept_or_armed h with hkept | ⟨_, _, _, _, _, _, _, hidle, _⟩
    · exact hkept
    · simp [hbusy] at hidle
  case refused =>
    intro hbusy i hi
    rw [exec_of_runs_xfer ((runs_xfer_iff i).mpr hi), execXfer_of_busy hbusy]

/-- Settles O51: a step that does not leave RESULT and a set BUSY alone is a terminal service step. -/
theorem onlyTerminalStepsEndATransaction : Obligations.OnlyTerminalStepsEndATransaction := by
  intro s t h hchange
  rcases step_result_kept_or_ends h with ⟨hresult, hbusy⟩ | ⟨hturn, hend⟩
  · rcases hchange with hne | ⟨hb, hidle⟩
    · exact absurd hresult hne
    · simp [hbusy hb] at hidle
  · obtain ⟨hsentinel, hcursor⟩ := hend.result_by_stat
    exact ⟨hturn, hend.pending, hend.enabled, hend.idle, hend.serviced, hend.stat_cases, hsentinel, hcursor,
      hend.stop⟩

/-- Settles O52: the advancing handlers are the only writers left, and the invariant keeps CURSOR below its
greatest value. -/
theorem cursorMovesOnlyByService : Obligations.CursorMovesOnlyByService := by
  intro s t hinv hbusy h hchange
  rcases step_cursor_kept_or_advances hbusy h with hkept | ⟨rest, i, hin, hadv, hcursor⟩
  · exact absurd hkept hchange
  have hbelow : s.cursor.toNat < 4294967295 := Nat.lt_of_le_of_lt hinv.cursor_le hinv.length_lt
  refine ⟨⟨rest, hin⟩, by rw [hcursor, State.nextCursor_toNat hbelow], ?_⟩
  exact hadv.imp And.right And.right

/-- Settles O53: CFG is read off the build, which no step writes. -/
theorem enablesAndBuildAreKept : Obligations.EnablesAndBuildAreKept := by
  intro s t h
  obtain ⟨hen, hirq, hbuild⟩ := step_enables_kept h
  exact ⟨hen, hirq, hbuild, by rw [State.cfgWord, State.cfgWord, hbuild]⟩

/-- Settles O1: the launch writes the reset values out, and CFG shows the build's policy. -/
theorem resetRegisterValues : Obligations.ResetRegisterValues := by
  refine ⟨fun build mem contexts inputs => ?_, rfl⟩
  have hcfg := State.cfgWord_toNat (State.launch build mem contexts inputs)
  exact ⟨rfl, rfl, rfl, rfl, rfl, rfl, rfl, rfl, rfl, rfl, rfl, rfl, rfl, rfl, rfl, rfl, rfl, rfl, hcfg,
    rfl, rfl, rfl, rfl, rfl, rfl, rfl, rfl⟩

/-- Settles O46: reset is one of the launches. -/
theorem invariantHoldsAtLaunch : Obligations.InvariantHoldsAtLaunch :=
  ⟨inv_launch _ _ _ _, inv_launch⟩

end Sys2Proof.Machine

/-!
SUPPORT. Host memory and the accesses that reach it or the register block: what each access amounts to, the step
it makes, when the FSM is stuck, and the obligations about host memory (20_memory.md).
-/
namespace Sys2Proof.Machine

/-! ### Every instruction and every turn completes -/

theorem Effect.mem_inputs_eq {s t : State} {i : Instr} (h : Effect s i t) :
    t.mem = s.mem ∧ t.inputs = s.inputs := by
  cases h <;> exact ⟨rfl, rfl⟩

theorem execInit_completes (s : State) : ∃ t, execInit s = .next t := by
  unfold execInit
  repeat' split
  all_goals exact ⟨_, rfl⟩

theorem execXfer_completes (s : State) : ∃ t, execXfer s = .next t := by
  unfold execXfer
  repeat' split
  all_goals exact ⟨_, rfl⟩

theorem execHostWrCmd_completes (w : Word) (s : State) : ∃ t, execHostWrCmd w s = .next t := by
  unfold execHostWrCmd
  split
  · exact execInit_completes s
  · exact execXfer_completes s
  all_goals exact ⟨_, rfl⟩

theorem exec_completes (i : Instr) (s : State) : ∃ t, exec i s = .next t := by
  cases i with
  | init => exact execInit_completes s
  | xfer => exact execXfer_completes s
  | hostWrCmd w => exact execHostWrCmd_completes w s
  | eStart other => cases other <;> exact ⟨_, rfl⟩
  | _ => exact ⟨_, rfl⟩

theorem runAction_completes (a : Action) (s : State) : ∃ t, runAction a s = .next t := by
  cases a with
  | run i => exact exec_completes i s
  | _ => exact ⟨_, rfl⟩

theorem finishTurn_completes (inp : Input) (t : State) : ∃ u, finishTurn inp (.next t) = .next u := by
  cases inp <;> exact ⟨_, rfl⟩

theorem step_completes (s : State) : ∃ t, step s = .next t := by
  cases hin : s.inputs with
  | nil => exact ⟨s, step_nil hin⟩
  | cons inp rest =>
    obtain ⟨u, hu⟩ := runAction_completes (s.action inp) { s with inputs := rest }
    rw [step_eq_finishTurn hin, hu]
    exact finishTurn_completes inp u

/-! ### Accesses the register block refuses -/

theorem Access.wf_iff (a : Access) : a.wf = true ↔ a.size = 4 ∧ a.offset.toNat % 4 = 0 := by
  simp [Access.wf, ← BitVec.toNat_inj, BitVec.extractLsb'_toNat]

/-- What the decoder rejects is F_MMIO_ACCESS (20_memory.md R62). -/
theorem accessAction_of_not_wf {a : Access} (h : a.wf = false) : accessAction a = .fault .mmioAccess := by
  obtain ⟨e, he⟩ := (decodeAccess_error_iff a).mpr h
  rw [accessAction, he]

theorem State.blockAction_of_bad (s : State) (write : Bool) {addr size : Nat} (value : Word)
    (h : size ≠ 4 ∨ addr % 4 ≠ 0) : s.blockAction write addr size value = .fault .mmioAccess :=
  if_neg fun ⟨hsize, halign, _⟩ => h.elim (absurd hsize) (absurd halign)

/-- An aligned word at BASE + offset is the decoded access at that offset (20_memory.md R61, R71). -/
theorem State.blockAction_of_offset {s : State} {write : Bool} {addr : Nat} {off : BitVec 7} {v : Word}
    {i : Instr} (haddr : addr = s.build.base + off.toNat) (halign : addr % 4 = 0)
    (hdec : decode (.access ⟨write, 4, off, v⟩) = .ok i) : s.blockAction write addr 4 v = .run i := by
  have hoff : BitVec.ofNat 7 (addr - s.build.base) = off := by
    rw [haddr, Nat.add_sub_cancel_left, BitVec.ofNat_toNat, BitVec.setWidth_eq]
  rw [State.blockAction, if_pos ⟨rfl, halign, by omega, by omega⟩, hoff]
  exact s.action_reg_of_decode hdec

/-! ### What a host access to an absolute address touches -/

theorem overlaps_iff (a n b m : Nat) :
    overlaps a n b m = true ↔ 0 < n ∧ 0 < m ∧ a < b + m ∧ b < a + n := by
  simp [overlaps, and_assoc]

theorem State.touchesBlock_iff (s : State) (addr size : Nat) :
    s.touchesBlock addr size = true ↔
      0 < size ∧ addr < s.build.base + 128 ∧ s.build.base < addr + size := by
  simp [State.touchesBlock, overlaps_iff]

theorem State.touchesBuffer_iff (s : State) (addr size : Nat) :
    s.touchesBuffer addr size = true ↔ s.busy = true ∧ 0 < size ∧ 0 < s.length.toNat ∧
      addr < s.bufbase.toNat + s.length.toNat ∧ s.bufbase.toNat < addr + size := by
  simp only [State.touchesBuffer, Bool.and_eq_true, overlaps_iff]

section
variable {s : State} {addr : Word} {bytes : List Byte}

theorem State.action_load_of_touchesBlock {size : Nat} (h : s.touchesBlock addr.toNat size = true) :
    s.action (.load addr size) = s.blockAction false addr.toNat size 0 :=
  if_pos h

theorem State.action_store_of_touchesBlock (h : s.touchesBlock addr.toNat bytes.length = true) :
    s.action (.store addr bytes) = s.blockAction true addr.toNat bytes.length (wordOfBytes bytes) :=
  if_pos h

variable (hblock : ¬ s.touchesBlock addr.toNat bytes.length = true)
include hblock

theorem State.action_store_of_touchesBuffer (h : s.touchesBuffer addr.toNat bytes.length = true) :
    s.action (.store addr bytes) = .hazard addr.toNat bytes.length := by
  rw [State.action, State.storeAction, if_neg hblock, if_pos h]

variable (hbuffer : ¬ s.touchesBuffer addr.toNat bytes.length = true)
include hbuffer

theorem State.action_store_pastTop (h : 4294967296 < addr.toNat + bytes.length) :
    s.action (.store addr bytes) = .edge addr.toNat bytes.length := by
  rw [State.action, State.storeAction, if_neg hblock, if_neg hbuffer, if_pos h]

theorem State.action_store_memory (h : addr.toNat + bytes.length ≤ 4294967296) :
    s.action (.store addr bytes) = .memWrite addr.toNat bytes := by
  rw [State.action, State.storeAction, if_neg hblock, if_neg hbuffer, if_neg (Nat.not_lt.mpr h)]

end

theorem toNat_append_byte {n : Nat} (x : BitVec n) (b : Byte) :
    (x ++ b).toNat = 256 * x.toNat + b.toNat := by
  rw [BitVec.toNat_append, Nat.shiftLeft_eq, Nat.mul_comm, ← Nat.two_pow_add_eq_or_of_lt b.isLt]

/-- A register word stored bytewise: the byte at the lowest address is bits 7 to 0 (20_memory.md R63). -/
theorem wordOfBytes_toNat (b0 b1 b2 b3 : Byte) :
    (wordOfBytes [b0, b1, b2, b3]).toNat =
      b0.toNat + 256 * b1.toNat + 65536 * b2.toNat + 16777216 * b3.toNat := by
  show (b3 ++ b2 ++ b1 ++ b0).toNat = _
  rw [toNat_append_byte, toNat_append_byte, toNat_append_byte]
  omega

/-! ### The step of an access -/

section
variable {s : State} {inp : Input} {rest : List Input}

theorem step_eq_runAction (hin : s.inputs = inp :: rest) (hturn : ∀ k, inp ≠ .turn k) :
    step s = runAction (s.action inp) { s with inputs := rest } := by
  rw [step_eq_finishTurn hin, finishTurn_of_ne_turn hturn]

theorem step_of_fault {r : FaultReason} (hin : s.inputs = inp :: rest) (hturn : ∀ k, inp ≠ .turn k)
    (hact : s.action inp = .fault r) :
    step s = .next { s with inputs := rest, faultMark := s.faultMark.or (some r) } := by
  rw [step_eq_runAction hin hturn, hact, runAction, State.raiseFault]

variable {addr : Word} {bytes : List Byte} (hin : s.inputs = .store addr bytes :: rest)
include hin

theorem step_of_hazard (hact : s.action (.store addr bytes) = .hazard addr.toNat bytes.length) :
    step s = .next (({ s with inputs := rest } : State).hazardWrite addr.toNat bytes.length) := by
  rw [step_eq_runAction hin nofun, hact, runAction]

theorem step_of_edge (hact : s.action (.store addr bytes) = .edge addr.toNat bytes.length) :
    step s = .next (({ s with inputs := rest } : State).disturb addr.toNat bytes.length) := by
  rw [step_eq_runAction hin nofun, hact, runAction]

theorem step_of_memWrite (hact : s.action (.store addr bytes) = .memWrite addr.toNat bytes) :
    step s = .next { s with inputs := rest, mem := s.mem.writeBytes addr.toNat bytes } := by
  rw [step_eq_runAction hin nofun, hact, runAction]

end

/-! ### The stuck FSM -/

theorem State.pendingIndex_eq_some_iff (s : State) (i : Nat) :
    s.pendingIndex = some i ↔
      (s.stat = Config.addrAck ∧ s.cursor < s.length ∧ i = 0) ∨
      ((s.stat = Config.dataAck ∨ (s.stat = Config.dataNack ∧ s.build.ignoreDataNack = true)) ∧
        s.nextCursor < s.length ∧ i = s.nextCursor.toNat) := by
  unfold State.pendingIndex
  split
  · rename_i haddr
    have hack : Config.addrAck ≠ Config.dataAck := by decide
    have hnack : Config.addrAck ≠ Config.dataNack := by decide
    simp [haddr, hack, hnack, eq_comm (a := i)]
  · rename_i haddr
    split
    · rename_i hdata
      simp [haddr, hdata, eq_comm (a := i)]
    · rename_i hdata
      simp [haddr, hdata]

/-- The FSM is stuck on the one buffer byte its pending handler would emit (60_exceptions.md R206). -/
theorem State.fsmStuck_iff (s : State) :
    s.fsmStuck = true ↔
      s.si = true ∧ s.irqEn = true ∧ ∃ i, s.pendingIndex = some i ∧ s.bufferByte i = none := by
  cases hp : s.pendingIndex <;> simp [State.fsmStuck, hp, and_assoc]

theorem State.takeWhen_self (s : State) (g : Bool) : s.takeWhen g s = .next s := by
  cases g <;> rfl

theorem State.emitBuffer_of_none {s t : State} {i : Nat} (h : s.bufferByte i = none) :
    s.emitBuffer t i = s := by
  simp [State.emitBuffer, h]

theorem State.advance_of_unadmitted {s : State} (hlt : s.nextCursor < s.length)
    (hnone : s.bufferByte s.nextCursor.toNat = none) : s.advance = s := by
  rw [State.advance, if_pos hlt, State.emitBuffer_of_none hnone]

theorem execSvcAddrAck_of_unadmitted {s : State} (hlt : s.cursor < s.length)
    (hnone : s.bufferByte 0 = none) : execSvcAddrAck s = .next s := by
  rw [execSvcAddrAck, if_pos hlt, State.emitBuffer_of_none hnone, State.takeWhen_self]

/-- The handler a stuck FSM would run answers the state it began in (20_memory.md R67). -/
theorem exec_decodeStatus_of_unadmitted {s : State} {i : Nat} (hp : s.pendingIndex = some i)
    (hnone : s.bufferByte i = none) : exec (decodeStatus s.build.ignoreDataNack s.stat) s = .next s := by
  rcases (s.pendingIndex_eq_some_iff i).mp hp with ⟨hstat, hlt, rfl⟩ | ⟨hstat, hlt, rfl⟩
  · rw [hstat]
    exact execSvcAddrAck_of_unadmitted hlt hnone
  · have hstay := State.advance_of_unadmitted hlt hnone
    rcases hstat with hstat | ⟨hstat, hignore⟩
    · rw [hstat]
      show execSvcDataAck s = .next s
      rw [execSvcDataAck, hstay, State.takeWhen_self]
    · rw [hstat, hignore]
      show execSvcDataNackIgnore s = .next s
      rw [execSvcDataNackIgnore, hstay, State.takeWhen_self]

/-- The turn of a stuck FSM is used up and changes nothing (20_memory.md R67, 00_scope.md R12). -/
theorem step_of_fsmStuck {s : State} {rest : List Input} (hin : s.inputs = .service :: rest)
    (h : s.fsmStuck = true) : step s = .next { s with inputs := rest } := by
  obtain ⟨hsi, hirq, i, hp, hnone⟩ := s.fsmStuck_iff.mp h
  rw [step_of_run hin nofun (State.action_service_of_pending hsi hirq)]
  exact exec_decodeStatus_of_unadmitted (s := { s with inputs := rest }) hp hnone

/-! ### The obligations -/

/-- Settles O7: the instructions and the turns are total, and an instruction's one effect (`Effect`) leaves the
parameters of the step relation alone. -/
theorem everyInstructionCompletes : Obligations.EveryInstructionCompletes := by
  refine ⟨fun i s => ?_, step_completes⟩
  obtain ⟨t, ht⟩ := exec_completes i s
  have heff := effect_of_exec ht
  obtain ⟨hmem, hinputs⟩ := heff.mem_inputs_eq
  obtain ⟨_, _, hbuild⟩ := heff.enables_kept
  exact ⟨t, ht, hmem, hbuild, hinputs, heff.contexts_eq⟩

/-- Settles O12: an access by host address that touches the block is decided by `State.blockAction`, which runs
the access at the offset or faults. -/
theorem absoluteAccessIsOffsetAccess : Obligations.AbsoluteAccessIsOffsetAccess := by
  intro s rest addr off
  refine ⟨fun hbase haddr hoff => ⟨?load, ?store⟩, ?badLoad, ?badStore⟩
  case load =>
    intro i hdec hin
    have htouch := (s.touchesBlock_iff addr.toNat 4).mpr (by omega)
    exact step_of_run hin nofun ((State.action_load_of_touchesBlock htouch).trans
      (State.blockAction_of_offset haddr (by omega) hdec))
  case store =>
    intro b0 b1 b2 b3 v i hv hdec hin
    have hword : wordOfBytes [b0, b1, b2, b3] = v :=
      BitVec.eq_of_toNat_eq ((wordOfBytes_toNat b0 b1 b2 b3).trans hv.symm)
    have htouch := (s.touchesBlock_iff addr.toNat 4).mpr (by omega)
    refine step_of_run hin nofun ((State.action_store_of_touchesBlock htouch).trans ?_)
    rw [hword]
    exact State.blockAction_of_offset haddr (by omega) hdec
  case badLoad =>
    intro size hin hbelow habove hsize hbad
    have htouch := (s.touchesBlock_iff addr.toNat size).mpr ⟨hsize, hbelow, habove⟩
    exact step_of_fault hin nofun
      ((State.action_load_of_touchesBlock htouch).trans (s.blockAction_of_bad _ _ hbad))
  case badStore =>
    intro bytes hin hbelow habove hsize hbad
    have htouch := (s.touchesBlock_iff addr.toNat bytes.length).mpr ⟨hsize, hbelow, habove⟩
    exact step_of_fault hin nofun
      ((State.action_store_of_touchesBlock htouch).trans (s.blockAction_of_bad _ _ hbad))

/-- Settles O29: the missing byte is the one the pending handler would emit, so the FSM is stuck. -/
theorem unadmittedReadIsStuck : Obligations.UnadmittedReadIsStuck := by
  intro s rest hin hsi hirq
  have key : ∀ i, s.pendingIndex = some i → s.bufferByte i = none →
      step s = .next { s with inputs := rest } ∧ s.fsmStuck = true := by
    intro i hp hnone
    have hstuck := s.fsmStuck_iff.mpr ⟨hsi, hirq, i, hp, hnone⟩
    exact ⟨step_of_fsmStuck hin hstuck, hstuck⟩
  refine ⟨fun hstat hlt hnone => ?addr, fun hstat hlt hnone => ?data⟩
  case addr => exact key 0 ((s.pendingIndex_eq_some_iff 0).mpr (.inl ⟨hstat, hlt, rfl⟩)) hnone
  case data =>
    have hnext : s.nextCursor.toNat = s.cursor.toNat + 1 :=
      State.nextCursor_toNat (by have := s.length.isLt; omega)
    have hlt' : s.nextCursor < s.length := by rw [BitVec.lt_def, hnext]; exact hlt
    exact key (s.cursor.toNat + 1)
      ((s.pendingIndex_eq_some_iff _).mpr (.inr ⟨hstat, hlt', hnext.symm⟩)) hnone

/-- Settles O41: the store misses the block and shares byte `k` with the buffer, so it is the faulting write. -/
theorem bufferHazardFaults : Obligations.BufferHazardFaults := by
  intro s rest addr bytes k hin hbusy hblock hk hk' hbuf hbuf'
  have hmiss : ¬ s.touchesBlock addr.toNat bytes.length = true := by
    rw [State.touchesBlock_iff]; omega
  have htouch : s.touchesBuffer addr.toNat bytes.length = true :=
    (s.touchesBuffer_iff _ _).mpr ⟨hbusy, by omega, by omega, by omega, by omega⟩
  exact ⟨_, step_of_hazard hin (State.action_store_of_touchesBuffer hmiss htouch), rfl,
    fun a ha => State.read_disturb_other _ addr.isLt.le ha⟩

/-- Settles O42: the store misses the block and the buffer in flight, so it is a write to host memory or one past
the top of the address space. -/
theorem hostWriteLands : Obligations.HostWriteLands := by
  intro s rest addr bytes hin _ hblock hbuf
  have hmiss : ¬ s.touchesBlock addr.toNat bytes.length = true := by
    rw [State.touchesBlock_iff]; omega
  have hfree : ¬ s.touchesBuffer addr.toNat bytes.length = true := by
    rw [State.touchesBuffer_iff]
    rintro ⟨hbusy, _, _, hbelow, habove⟩
    rcases hbuf with hidle | hbuf
    · simp [hbusy] at hidle
    · omega
  rcases Nat.lt_or_ge (2 ^ 32) (addr.toNat + bytes.length) with htop | htop
  · exact ⟨_, step_of_edge hin (State.action_store_pastTop hmiss hfree htop),
      fun a ha => State.read_disturb_other _ addr.isLt.le ha, fun hfits => absurd hfits htop.not_ge, fun _ => rfl⟩
  · exact ⟨_, step_of_memWrite hin (State.action_store_memory hmiss hfree htop),
      fun a ha => Memory.read_writeBytes_other _ _ ha,
      fun _ => ⟨rfl, fun k hk => Memory.read_writeBytes_inside _ _ _ _ hk⟩,
      fun hpast => absurd hpast htop.not_gt⟩

/-- Settles O43: of a step's effects the three writes by the host are the only ones on memory, and each stays below
the top of the address space. -/
theorem memoryStaysCanonical : Obligations.MemoryStaysCanonical := by
  refine ⟨rfl, fun s t hwf h => ?_⟩
  rcases step_cases h with ⟨_, rfl⟩ | ⟨inp, rest, u, cs, _, rfl, hturn⟩
  · exact hwf
  show u.mem.wf = true
  rcases hturn with ⟨i, _, hexec⟩ | ⟨r, _, rfl⟩ | ⟨a, bs, hact, rfl⟩ | ⟨a, n, hact, rfl⟩ |
    ⟨a, n, hact, rfl⟩ | ⟨_, rfl⟩
  · obtain ⟨hmem, _⟩ := (effect_of_exec hexec).mem_inputs_eq
    rw [hmem]
    exact hwf
  · exact hwf
  · obtain ⟨hfits, _⟩ := State.action_memWrite hact
    exact Memory.writeBytes_wf hwf hfits
  · obtain ⟨haddr, _⟩ := State.action_hazard hact
    exact State.disturb_wf hwf haddr.le
  · obtain ⟨haddr, _⟩ := State.action_edge hact
    exact State.disturb_wf hwf haddr.le
  · exact hwf

/-- Settles O11: an access that is no aligned word is one the decoder rejects. -/
theorem badAccessFaults : Obligations.BadAccessFaults := by
  intro s rest a hin hbad
  have hwf : a.wf = false := by
    rw [← Bool.not_eq_true, Access.wf_iff]; omega
  exact step_of_fault hin nofun (accessAction_of_not_wf hwf)

end Sys2Proof.Machine

/-!
SUPPORT. Which codes the decoder gives to which row, what it gives back for an encoding, and the obligations about
the encoding (30_encoding.md; the engine's selection, 42_bus_engine.md R172).
-/
namespace Sys2Proof

/-! ### Status codes -/

theorem Config.recognised_eq_false_iff (c : Byte) :
    Config.recognised c = false ↔ c ≠ Config.startSent ∧ c ≠ Config.addrAck ∧ c ≠ Config.addrNack ∧
      c ≠ Config.dataAck ∧ c ≠ Config.dataNack ∧ c ≠ Config.arbLost := by
  simp [Config.recognised, Config.recognisedCodes]

theorem decodeStatus_of_unrecognised (ignoreDataNack : Bool) {c : Byte} (h : Config.recognised c = false) :
    decodeStatus ignoreDataNack c = .svcOther c := by
  obtain ⟨h1, h2, h3, h4, h5, h6⟩ := (Config.recognised_eq_false_iff c).mp h
  rw [decodeStatus, if_neg h1, if_neg h2, if_neg h3, if_neg h4, if_neg h5, if_neg h6]

/-- SVC_OTHER is what is left once all six recognised codes are excluded (30_encoding.md R89). -/
theorem decodeStatus_wf (ignoreDataNack : Bool) (c : Byte) : (decodeStatus ignoreDataNack c).wf = true := by
  unfold decodeStatus
  split_ifs with h1 h2 h3 h4 h5 _ h6
  any_goals rfl
  simp [Instr.wf, (Config.recognised_eq_false_iff c).mpr ⟨h1, h2, h3, h4, h5, h6⟩]

/-! ### Command words -/

theorem commandOp_eq_iff (w : Word) (op : BitVec 4) : commandOp w = op ↔ w.toNat % 16 = op.toNat := by
  rw [← BitVec.toNat_inj, commandOp_toNat]

theorem decodeCommand_of_init {w : Word} (h : w.toNat % 16 = 1) : decodeCommand w = .init :=
  if_pos ((commandOp_eq_iff w 0x1).mpr h)

/-- No command has an operand that a code could fail to admit (30_encoding.md R92). -/
theorem decodeCommand_wf (w : Word) : (decodeCommand w).wf = true := by
  unfold decodeCommand
  split_ifs <;> rfl

/-- The row of OP = 0x4 to 0x7 gives back both of its free bits. -/
theorem decodeCommand_encode_rsvd4to7 (low : BitVec 2) :
    decodeCommand ((0 : BitVec 28) ++ (0b01 : BitVec 2) ++ low) = .cmdRsvd4to7 low := by
  revert low
  decide

/-- The row of OP = 0x8 to 0xF gives back its three free bits. -/
theorem decodeCommand_encode_rsvd8toF (low : BitVec 3) :
    decodeCommand ((0 : BitVec 28) ++ (0b1 : BitVec 1) ++ low) = .cmdRsvd8toF low := by
  revert low
  decide

/-! ### Host accesses -/

/-- The ignored words are those that are neither CMD nor a staging register (40_host_interface.md R113). -/
theorem regIgnored_iff (reg : RegIndex) :
    regIgnored reg = true ↔
      reg ≠ 0x00 ∧ reg ≠ 0x10 ∧ reg ≠ 0x11 ∧ reg ≠ 0x12 ∧ reg ≠ 0x13 ∧ reg ≠ 0x14 := by
  revert reg
  decide

theorem decodeWrite_wf (reg : RegIndex) (v : Word) : (decodeWrite reg v).wf = true := by
  unfold decodeWrite
  split_ifs with hcmd hfreq hprio haddr hbuf hlen
  any_goals rfl
  exact (regIgnored_iff reg).mpr ⟨hcmd, hfreq, hprio, haddr, hbuf, hlen⟩

theorem decodeAccess_wf {a : Access} {i : Instr} (h : decodeAccess a = .ok i) : i.wf = true := by
  unfold decodeAccess at h
  split_ifs at h <;> cases h
  · exact decodeWrite_wf _ _
  · rfl

/-! ### Engine codes -/

/-- A start takes from an answer R180 allows only an unrecognised code. -/
theorem eStart_replacing_wf {d : Draw} (hd : d.wf = true) : (Instr.eStart d.replacing).wf = true := by
  cases d with
  | other c => exact hd
  | _ => rfl

theorem engineSelect_wf {f : EngineFlags} {d : Draw} {i : Instr} (hd : d.wf = true)
    (h : engineSelect f d = some i) : i.wf = true := by
  unfold engineSelect at h
  split_ifs at h <;> cases h
  any_goals rfl
  · exact eStart_replacing_wf hd
  · exact hd

end Sys2Proof

namespace Sys2Proof.Machine

/-! ### The CMD write -/

theorem exec_hostWrCmd_init {w : Word} (h : w.toNat % 16 = 1) (s : State) :
    exec (.hostWrCmd w) s = exec .init s := by
  simp [exec, execHostWrCmd, decodeCommand_of_init h]

theorem exec_hostWrCmd_xfer {w : Word} (h : w.toNat % 16 = 2) (s : State) :
    exec (.hostWrCmd w) s = exec .xfer s :=
  exec_of_runs_xfer (.inr ⟨w, rfl, (decodeCommand_eq_xfer_iff w).mpr h⟩) s

/-- Every other OP selects one of the four reserved rows, and all four clear CMDRESP (40_host_interface.md R121). -/
theorem exec_hostWrCmd_reserved {w : Word} (hinit : w.toNat % 16 ≠ 1) (hxfer : w.toNat % 16 ≠ 2) (s : State) :
    exec (.hostWrCmd w) s = .next { s with cmdresp := false } := by
  have hop1 : commandOp w ≠ 0x1 := (commandOp_eq_iff w 0x1).not.mpr hinit
  have hop2 : commandOp w ≠ 0x2 := (commandOp_eq_iff w 0x2).not.mpr hxfer
  rw [exec, execHostWrCmd, decodeCommand, if_neg hop1, if_neg hop2]
  split_ifs <;> rfl

/-- CMD[31:4] is not looked at (30_encoding.md R94): CMD[3:0] settles which of the three cases a word is. -/
theorem exec_hostWrCmd_congr {w w' : Word} (h : w'.toNat % 16 = w.toNat % 16) (s : State) :
    exec (.hostWrCmd w') s = exec (.hostWrCmd w) s := by
  by_cases hinit : w.toNat % 16 = 1
  · rw [exec_hostWrCmd_init hinit, exec_hostWrCmd_init (h.trans hinit)]
  by_cases hxfer : w.toNat % 16 = 2
  · rw [exec_hostWrCmd_xfer hxfer, exec_hostWrCmd_xfer (h.trans hxfer)]
  · rw [exec_hostWrCmd_reserved hinit hxfer, exec_hostWrCmd_reserved (h ▸ hinit) (h ▸ hxfer)]

/-! ### The obligations -/

/-- Settles O5, row by row: a fixed code is looked up, and an operand comes back from the bits the row leaves
free. -/
theorem decodeEncodeAgree : Obligations.DecodeEncodeAgree := by
  intro i hwf
  cases i with
  | svcOther c =>
    have hrec : Config.recognised c = false := by simpa [Instr.wf] using hwf
    exact congrArg Except.ok (decodeStatus_of_unrecognised false hrec)
  | cmdRsvd4to7 low => exact congrArg Except.ok (decodeCommand_encode_rsvd4to7 low)
  | cmdRsvd8toF low => exact congrArg Except.ok (decodeCommand_encode_rsvd8toF low)
  | hostRd reg => exact decodeAccess_rd reg
  | hostWrCmd w => exact decodeAccess_wr 0x00 w
  | hostWrArgFreq v => exact decodeAccess_wr 0x10 v
  | hostWrArgPrio v => exact decodeAccess_wr 0x11 v
  | hostWrArgAddr v => exact decodeAccess_wr 0x12 v
  | hostWrArgBuf v => exact decodeAccess_wr 0x13 v
  | hostWrArgLen v => exact decodeAccess_wr 0x14 v
  | hostWrIgn reg v =>
    exact (decodeAccess_wr reg v).trans (congrArg Except.ok (decodeWrite_ignored hwf v))
  | eStart other => cases other <;> rfl
  | _ => rfl

/-- Settles O6, by the space of the code: SVC_OTHER and HOST_WR_IGN are decoded only where every other row is excluded,
and an engine step's operand is the answer, well formed by hypothesis. -/
theorem decodedIsWellFormed : Obligations.DecodedIsWellFormed := by
  intro c i hdraw hdec
  cases c with
  | status ignoreDataNack c =>
    cases hdec
    exact decodeStatus_wf ignoreDataNack c
  | command w =>
    cases hdec
    exact decodeCommand_wf w
  | access a => exact decodeAccess_wf hdec
  | engine f d => exact engineSelect_wf (hdraw f d rfl) (decode_engine_eq_ok hdec)

/-- Settles O13: INIT, XFER, the reserved commands, and words that agree in CMD[3:0]. -/
theorem commandWordSelectsByLowBits : Obligations.CommandWordSelectsByLowBits := fun s _ =>
  ⟨fun h => exec_hostWrCmd_init h s, fun h => exec_hostWrCmd_xfer h s,
    fun hinit hxfer => exec_hostWrCmd_reserved hinit hxfer s, fun _ h => exec_hostWrCmd_congr h s⟩

/-- Settles O4: the codes are closed, so the decoder computes each of their rows. -/
theorem decodedWordsOfTheTables : Obligations.DecodedWordsOfTheTables := by
  unfold Obligations.DecodedWordsOfTheTables
  decide

end Sys2Proof.Machine

/-!
SUPPORT. The register views, the clock divider, the two commands case by case, what a hung transaction keeps, the
turns of a host program, and the obligations about the host interface (40_host_interface.md).
-/
namespace Sys2Proof.Machine

/-! ### Register reads -/

/-- A word of the register map is known by its byte offset (20_memory.md R61). -/
theorem reg_eq_iff_offset (reg c : RegIndex) : reg = c ↔ reg.toNat * 4 = c.toNat * 4 := by
  rw [← BitVec.toNat_inj]
  omega

theorem State.statusWord_toNat (s : State) :
    s.statusWord.toNat = 2 * s.cmdresp.toNat + s.busy.toNat := by
  unfold State.statusWord
  cases s.cmdresp <;> cases s.busy <;> rfl

theorem State.conflagsWord_toNat (s : State) :
    s.conflagsWord.toNat = 128 * s.irqEn.toNat + 64 * s.en.toNat + 32 * s.sta.toNat +
      16 * s.sto.toNat + 8 * s.si.toNat + 4 * s.aa.toNat := by
  unfold State.conflagsWord
  cases s.irqEn <;> cases s.en <;> cases s.sta <;> cases s.sto <;> cases s.si <;> cases s.aa <;> rfl

theorem State.engstateWord_toNat (s : State) :
    s.engstateWord.toNat = 2 * (phaseCode s.last).toNat + s.owned.toNat := by
  unfold State.engstateWord
  cases s.last <;> cases s.owned <;> rfl

/-! ### The clock divider -/

section
variable {pclk freq low period : Nat}

/-- The floor of R116 is the one number within its bounds. -/
theorem divLow_eq_of_bounds (h : low * (2 * freq) ≤ pclk) (h' : pclk < (low + 1) * (2 * freq)) :
    divLow pclk freq = low :=
  Nat.div_eq_of_lt_le h h'

/-- The ceiling of R116 is the one number within its bounds. -/
theorem divPeriod_eq_of_bounds (h : pclk ≤ period * freq) (h' : period * freq < pclk + freq) :
    divPeriod pclk freq = period := by
  have hsucc : (period + 1) * freq = period * freq + freq := Nat.succ_mul period freq
  exact Nat.div_eq_of_lt_le (by omega) (by omega)

/-- The halves of R116 before they are cut to 16 bits: the high one is longer by at most 2 (70_reset_and_hazards.md
R243). -/
theorem divPeriod_bounds (hfreq : 0 < freq) :
    2 * divLow pclk freq ≤ divPeriod pclk freq ∧ divPeriod pclk freq ≤ 2 * divLow pclk freq + 2 := by
  obtain ⟨hlow, hlow'⟩ := divLow_spec (pclk := pclk) hfreq
  obtain ⟨hper, hper'⟩ := divPeriod_spec (pclk := pclk) hfreq
  constructor
  · refine Nat.le_of_mul_le_mul_right ?_ hfreq
    calc 2 * divLow pclk freq * freq = divLow pclk freq * (2 * freq) := by ring
      _ ≤ pclk := hlow
      _ ≤ divPeriod pclk freq * freq := hper
  · refine Nat.lt_succ_iff.mp (Nat.lt_of_mul_lt_mul_right (a := freq) ?_)
    calc divPeriod pclk freq * freq < pclk + freq := hper'
      _ ≤ (divLow pclk freq + 1) * (2 * freq) + freq := by omega
      _ = (2 * divLow pclk freq + 2 + 1) * freq := by ring

theorem divOutOfRange_iff :
    divOutOfRange pclk freq = true ↔ divLow pclk freq = 0 ∨ 65535 < divPeriod pclk freq - divLow pclk freq := by
  rw [divOutOfRange, Bool.or_eq_true, beq_iff_eq, decide_eq_true_eq, divHigh]

/-- In range, both halves fit their 16-bit registers. -/
theorem divider_toNat_of_inRange (hfreq : 0 < freq) (h : divOutOfRange pclk freq = false) :
    (BitVec.ofNat 16 (divLow pclk freq)).toNat = divLow pclk freq ∧
    (BitVec.ofNat 16 (divHigh pclk freq)).toNat = divPeriod pclk freq - divLow pclk freq := by
  have hrange := divOutOfRange_iff.not.mp (Bool.eq_false_iff.mp h)
  have hhalves := divPeriod_bounds (pclk := pclk) hfreq
  rw [divHigh]
  constructor <;> exact (BitVec.toNat_ofNat _ _).trans (Nat.mod_eq_of_lt (by omega))

end

/-! ### INIT -/

section
variable {s : State}

theorem execInit_of_busy (hbusy : s.busy = true) : execInit s = .next { s with cmdresp := false } := by
  rw [execInit, if_pos hbusy, State.respond]

theorem execInit_of_freq_zero (hidle : s.busy = false) (hfreq : s.argFreq.toNat = 0) :
    execInit s = .next (s.raiseFault .initFreqZero) := by
  have hzero : s.argFreq = 0 := BitVec.eq_of_toNat_eq hfreq
  simp [execInit, hidle, hzero]

theorem State.argFreq_ne_zero (hfreq : 0 < s.argFreq.toNat) : s.argFreq ≠ 0 :=
  fun hzero => hfreq.ne' (congrArg BitVec.toNat hzero)

theorem execInit_of_outOfRange (hidle : s.busy = false) (hfreq : 0 < s.argFreq.toNat)
    (hrange : divOutOfRange s.build.pclk s.argFreq.toNat = true) :
    execInit s = .next (s.raiseFault .initDivRange) := by
  rw [execInit, if_neg (Bool.eq_false_iff.mp hidle), if_neg (State.argFreq_ne_zero hfreq), if_pos hrange]

theorem execInit_of_inRange (hidle : s.busy = false) (hfreq : 0 < s.argFreq.toNat)
    (hrange : divOutOfRange s.build.pclk s.argFreq.toNat = false) :
    execInit s = .next (s.configure.respond true) := by
  rw [execInit, if_neg (Bool.eq_false_iff.mp hidle), if_neg (State.argFreq_ne_zero hfreq),
    if_neg (Bool.eq_false_iff.mp hrange)]

/-! ### XFER -/

/-- The length test of R119, on the value. -/
theorem State.argLen_eq_top_iff : s.argLen = 0xFFFFFFFF ↔ s.argLen.toNat = 4294967295 :=
  BitVec.toNat_inj.symm

theorem execXfer_of_length_fault (hidle : s.busy = false) (hlen : s.argLen.toNat = 4294967295) :
    execXfer s = .next (s.raiseFault .xferLen) := by
  rw [execXfer, if_neg (Bool.eq_false_iff.mp hidle), if_pos (State.argLen_eq_top_iff.mpr hlen)]

theorem execXfer_of_wrap_fault (hidle : s.busy = false) (hlen : s.argLen.toNat ≠ 4294967295)
    (hwrap : 4294967296 < s.argBuf.toNat + s.argLen.toNat) :
    execXfer s = .next (s.raiseFault .xferWrap) := by
  rw [execXfer, if_neg (Bool.eq_false_iff.mp hidle), if_neg (State.argLen_eq_top_iff.not.mpr hlen),
    if_pos hwrap]

theorem execXfer_of_fits (hidle : s.busy = false) (hlen : s.argLen.toNat ≠ 4294967295)
    (hfits : s.argBuf.toNat + s.argLen.toNat ≤ 4294967296) :
    execXfer s = .next (s.arm.respond true) := by
  rw [execXfer, if_neg (Bool.eq_false_iff.mp hidle), if_neg (State.argLen_eq_top_iff.not.mpr hlen),
    if_neg hfits.not_gt]

end

/-! ### Runs -/

theorem run_succ_of_step {s u : State} (h : step s = .next u) (k : Nat) :
    Host.Core.run Sys2Proof.core (k + 1) s = Host.Core.run Sys2Proof.core k u := by
  have hcore : Sys2Proof.core.step s = .next u := h
  simp only [Host.Core.run, hcore]

/-- What every step keeps holds after a run of any length. -/
theorem run_induction {P : State → Prop} (hstep : ∀ s t, P s → step s = .next t → P t) {k : Nat} {s t : State}
    (hs : P s) (h : Host.Core.run Sys2Proof.core k s = .next t) : P t := by
  induction k generalizing s with
  | zero =>
    cases h
    exact hs
  | succ k ih =>
    obtain ⟨u, hu⟩ := step_completes s
    rw [run_succ_of_step hu] at h
    exact ih (hstep s u hs hu) h

/-! ### A transaction armed before INIT -/

theorem State.hungBeforeInit_iff (s : State) :
    s.hungBeforeInit = true ↔ s.busy = true ∧ s.en = false ∧ s.irqEn = false := by
  simp [State.hungBeforeInit, and_assoc]

/-- INIT is refused while BUSY = 1, the handlers need IRQ_EN and the engine needs EN: no instruction moves the
transaction (40_host_interface.md R120). -/
theorem Effect.hungBeforeInit_kept {s t : State} {i : Instr} (h : Effect s i t)
    (hung : s.hungBeforeInit = true) :
    t.hungBeforeInit = true ∧ t.wire = s.wire ∧ t.result = s.result := by
  obtain ⟨hbusy, hen, hirq⟩ := s.hungBeforeInit_iff.mp hung
  cases h
  case skip | refused | fault | read | argFreq | argPrio | argAddr | argBuf | argLen => exact ⟨hung, rfl, rfl⟩
  case initDone | xferDone => simp_all  -- needs BUSY = 0
  case startSent | addrEmit | addrEnd | addrNack | dataEmit | dataEnd | dataStrict | arbLost =>
    simp_all  -- needs IRQ_EN = 1
  case stop | stoidle | start | startOther | byte | byteArb | byteOther | rstart => simp_all  -- needs EN = 1

theorem step_hungBeforeInit_kept {s t : State} (hung : s.hungBeforeInit = true) (h : step s = .next t) :
    t.hungBeforeInit = true ∧ t.wire = s.wire ∧ t.result = s.result := by
  rcases step_run_or_registers_kept h with ⟨_, _, _, _, _, _, _, heff, rfl⟩ | ⟨_, _, _, _, _, rfl⟩
  · exact heff.hungBeforeInit_kept hung
  · exact ⟨hung, rfl, rfl⟩

theorem run_hungBeforeInit_kept {k : Nat} {s t : State} (hung : s.hungBeforeInit = true)
    (h : Host.Core.run Sys2Proof.core k s = .next t) :
    t.hungBeforeInit = true ∧ t.wire = s.wire ∧ t.result = s.result := by
  refine run_induction (P := fun u => u.hungBeforeInit = true ∧ u.wire = s.wire ∧ u.result = s.result)
    ?_ ⟨hung, rfl, rfl⟩ h
  intro u v ⟨hu, hwire, hresult⟩ hstep
  obtain ⟨hv, hwire', hresult'⟩ := step_hungBeforeInit_kept hu hstep
  exact ⟨hv, hwire'.trans hwire, hresult'.trans hresult⟩

/-! ### The turns of a single host context -/

theorem setVar_getElem?_self (vars : List Word) (k : Nat) (v : Word) : (setVar vars k v)[k]? = some v := by
  fun_induction setVar vars k v <;> simp_all

section
variable {s t : State} {rest : List Input} {ops : List HostOp} {vars : List Word}
  (hin : s.inputs = .turn 0 :: rest)
include hin

/-- A write takes nothing from the port: the context only goes on to its next operation. -/
theorem run_succ_of_wr {reg : RegIndex} {v : Word}
    (hctx : s.contexts = [{ prog := .wr reg v :: ops, vars := vars }])
    (hexec : exec (decodeWrite reg v) { s with inputs := rest } = .next t) (k : Nat) :
    Host.Core.run Sys2Proof.core (k + 1) s =
      Host.Core.run Sys2Proof.core k { t with contexts := [{ prog := ops, vars := vars }] } := by
  have hstep := step_of_next_op (op := .wr reg v) hin (by rw [hctx]; rfl) rfl hexec
  rw [exec_contexts hexec, hctx] at hstep
  exact run_succ_of_step hstep k

/-- The read of STATUS after a refusal: the result variable becomes 0 and the rest of the call is passed over
(30_encoding.md R100). -/
theorem run_succ_of_rdAccepted_refused {dst result skip : Nat}
    (hctx : s.contexts = [{ prog := .rdAccepted dst result skip :: ops, vars := vars }])
    (hresp : s.cmdresp = false) (k : Nat) :
    Host.Core.run Sys2Proof.core (k + 1) s = Host.Core.run Sys2Proof.core k { s with
      rdData := s.statusWord, inputs := rest
      contexts := [{ prog := ops.drop skip, vars := setVar (setVar vars dst s.statusWord) result 0 }] } := by
  have hbit : s.statusWord.getLsbD 1 = false := by
    rw [State.statusWord, hresp]
    cases s.busy <;> rfl
  have hadv : ({ prog := .rdAccepted dst result skip :: ops, vars := vars } : HostContext).advance s.statusWord =
      { prog := ops.drop skip, vars := setVar (setVar vars dst s.statusWord) result 0 } := by
    rw [HostContext.advance, hbit]
    rfl
  have hstep := step_of_next_op (op := .rdAccepted dst result skip) hin (by rw [hctx]; rfl) rfl rfl
  rw [hctx] at hstep
  rw [run_succ_of_step hstep, ← hadv]
  rfl

end

/-! ### The obligations -/

/-- Settles O8: the offset selects the register, and each view has its arithmetic value. -/
theorem hostReadValues : Obligations.HostReadValues := by
  intro s reg
  refine ⟨s.readReg reg, rfl, ?_⟩
  simp only [State.readReg, reg_eq_iff_offset, apply_ite BitVec.toNat, State.statusWord_toNat,
    State.conflagsWord_toNat, State.engstateWord_toNat, State.cfgWord_toNat,
    BitVec.toNat_setWidth_of_le, Nat.reduceLeDiff]
  cases s.last <;> rfl

/-- Settles O15: the bounds of `low` and `period` make them the floor and the ceiling the model divides by. -/
theorem initEffect : Obligations.InitEffect := by
  intro s low period
  refine ⟨execInit_of_busy, execInit_of_freq_zero, ?_⟩
  intro hidle hfreq hlow hlow' hper hper'
  obtain rfl := divLow_eq_of_bounds hlow hlow'
  obtain rfl := divPeriod_eq_of_bounds hper hper'
  constructor
  · intro hbad
    exact execInit_of_outOfRange hidle hfreq (divOutOfRange_iff.mpr hbad)
  · intro hpos hmax
    have hrange : divOutOfRange s.build.pclk s.argFreq.toNat = false := by
      rw [← Bool.not_eq_true, divOutOfRange_iff]
      omega
    obtain ⟨hl, hh⟩ := divider_toNat_of_inRange hfreq hrange
    exact ⟨_, _, hl, hh, execInit_of_inRange hidle hfreq hrange⟩

/-- Settles O16: SCLL + SCLH is the ceiling, which lies between twice the floor and two more. -/
theorem dividerShape : Obligations.DividerShape := by
  intro s hidle hfreq hrange
  refine ⟨s.configure.respond true, execInit_of_inRange hidle hfreq hrange, rfl, ?_⟩
  obtain ⟨hl, hh⟩ := divider_toNat_of_inRange hfreq hrange
  have hhalves := divPeriod_bounds (pclk := s.build.pclk) hfreq
  have hscll : (s.configure.respond true).scll.toNat = divLow s.build.pclk s.argFreq.toNat := hl
  have hsclh : (s.configure.respond true).sclh.toNat =
      divPeriod s.build.pclk s.argFreq.toNat - divLow s.build.pclk s.argFreq.toNat := hh
  have hsum : (s.configure.respond true).scll.toNat + (s.configure.respond true).sclh.toNat =
      divPeriod s.build.pclk s.argFreq.toNat := by omega
  rw [hsum]
  exact ⟨by omega, by omega, divPeriod_spec hfreq⟩

/-- Settles O55: the armed transaction is hung before INIT, which every step of every agent keeps. -/
theorem xferBeforeInitHangs : Obligations.XferBeforeInitHangs := by
  intro k s u t hidle hen hirq hlen hfits hxfer hrun
  obtain rfl : s.arm.respond true = u := by
    simpa using (execXfer_of_fits hidle hlen hfits).symm.trans hxfer
  have hung := (s.arm.respond true).hungBeforeInit_iff.mpr ⟨rfl, hen, hirq⟩
  obtain ⟨hungt, hwire, hresult⟩ := run_hungBeforeInit_kept hung hrun
  obtain ⟨hbusy, hen', hirq'⟩ := t.hungBeforeInit_iff.mp hungt
  exact ⟨rfl, rfl, hbusy, hen', hirq', hwire, hresult⟩

/-- Settles O9: a staging write has one effect, and the cut to 8 or 7 bits is the remainder. -/
theorem stagingWrites : Obligations.StagingWrites := by
  intro s v
  refine ⟨rfl, ⟨v.extractLsb' 0 8, ?_, rfl⟩, ⟨v.extractLsb' 0 7, ?_, rfl⟩, rfl, rfl⟩ <;>
    simp [BitVec.extractLsb'_toNat]

/-- Settles O10: the words of those offsets decode to HOST_WR_IGN. -/
theorem ignoredWrites : Obligations.IgnoredWrites := by
  intro s reg v hreg
  have hign : regIgnored reg = true := by simpa [regIgnored] using hreg
  refine ⟨rfl, fun rest hin => ?_⟩
  have hdec : decode (.access (Access.wr reg v)) = .ok (.hostWrIgn reg v) := by
    rw [decode, decodeAccess_wr, decodeWrite_ignored hign]
  exact step_of_run hin nofun (s.action_reg_of_decode hdec)

/-- Settles O14: the four rows have the one meaning. -/
theorem reservedCommands : Obligations.ReservedCommands := fun _ _ _ => ⟨rfl, rfl, rfl, rfl⟩

/-- Settles O17: the accepted XFER, whose SLA byte is twice the address. -/
theorem xferAccepted : Obligations.XferAccepted := by
  intro s a hidle hlen hfits ha i hi
  obtain rfl : slaByte s.argAddr = a := BitVec.eq_of_toNat_eq ((slaByte_toNat _).trans ha.symm)
  rw [exec_of_runs_xfer ((runs_xfer_iff i).mpr hi), execXfer_of_fits hidle hlen hfits]
  rfl

/-- Settles O18: the refusal, then the two faults in their order. -/
theorem xferNotAccepted : Obligations.XferNotAccepted := fun _ =>
  ⟨execXfer_of_busy, execXfer_of_length_fault, execXfer_of_wrap_fault⟩

/-- Settles O60, turn by turn: three staging writes, the refused CMD write, and the read that finds the refusal. -/
theorem refusedTransferReturnsZero : Obligations.RefusedTransferReturnsZero := by
  intro s a b n vars rest hbusy hctx hin
  have hrefused (u : State) (hu : u.busy = true) :
      exec (decodeWrite 0x00 0x00000002) u = .next { u with cmdresp := false } :=
    (exec_hostWrCmd_xfer (by decide) u).trans (execXfer_of_busy hu)
  have hrun : Host.Core.run Sys2Proof.core 5 s = .next { s with
      argAddr := a.extractLsb' 0 7, argBuf := b, argLen := n, cmdresp := false, inputs := rest
      rdData := ({ s with cmdresp := false } : State).statusWord
      contexts := [{ prog := [],
                     vars := setVar (setVar vars 0 ({ s with cmdresp := false } : State).statusWord) 1 0 }] } := by
    refine Eq.trans (run_succ_of_wr hin hctx rfl 4) ?_
    refine Eq.trans (run_succ_of_wr rfl rfl rfl 3) ?_
    refine Eq.trans (run_succ_of_wr rfl rfl rfl 2) ?_
    refine Eq.trans (run_succ_of_wr rfl rfl (hrefused _ (by exact hbusy)) 1) ?_
    exact Eq.trans (run_succ_of_rdAccepted_refused rfl rfl rfl 0) rfl
  exact ⟨_, _, hrun, rfl, setVar_getElem?_self _ _ _, by simp [BitVec.extractLsb'_toNat], rfl⟩

end Sys2Proof.Machine

/-!
SUPPORT. What the invariant says of a pending event, how each effect and each turn keeps it, the transaction that an
unrecognised code hangs, and the obligations about them (41_event_fsm.md R149, R150; 42_bus_engine.md R186).
-/
namespace Sys2Proof.Machine

/-! ### What the invariant says of a pending event -/

/-- The recognised codes written out (30_encoding.md R88), which tells them apart. -/
theorem statusCodes_eq :
    Config.startSent = 0x08 ∧ Config.addrAck = 0x18 ∧ Config.addrNack = 0x20 ∧ Config.dataAck = 0x28 ∧
    Config.dataNack = 0x30 ∧ Config.arbLost = 0x38 ∧
    Config.recognisedCodes = [0x08, 0x18, 0x20, 0x28, 0x30, 0x38] :=
  ⟨rfl, rfl, rfl, rfl, rfl, rfl, rfl⟩

section
variable {s : State} (hinv : Inv s) (hsi : s.si = true)
include hinv hsi

theorem Inv.busy_of_pending : s.busy = true := by
  by_contra hidle
  obtain ⟨hquiet, _⟩ := hinv.idle_quiet (Bool.eq_false_iff.mpr hidle)
  simp [hsi] at hquiet

theorem Inv.sto_of_pending : s.sto = false := by
  by_contra hsto
  obtain ⟨_, hquiet, _⟩ := hinv.stop_pending (Bool.eq_true_of_not_eq_false hsto)
  simp [hsi] at hquiet

/-- START_SENT is pending before the request that made it is withdrawn (41_event_fsm.md R150). -/
theorem Inv.of_startSent (hstat : s.stat = Config.startSent) : s.last = .start ∧ s.sta = true := by
  simpa [hstat, statusCodes_eq, Config.recognised] using hinv.event_pending hsi

/-- An answer to the address byte comes before the cursor has moved (41_event_fsm.md R150 (b), (d)). -/
theorem Inv.of_addr (hstat : s.stat = Config.addrAck ∨ s.stat = Config.addrNack) :
    s.last = .addr ∧ s.sta = false ∧ s.cursor = 0 ∧ s.dat = s.sla := by
  rcases hstat with hstat | hstat <;>
    simpa [hstat, statusCodes_eq, Config.recognised] using hinv.event_pending hsi

/-- An answer to a data byte is the answer to buffer[CURSOR] (41_event_fsm.md R150 (c)). -/
theorem Inv.of_data (hstat : s.stat = Config.dataAck ∨ s.stat = Config.dataNack) :
    s.last = .data ∧ s.sta = false ∧ s.cursor.toNat < s.length.toNat ∧
      (s.clean = true → s.datIsBufferByte) := by
  rcases hstat with hstat | hstat <;>
    simpa [hstat, statusCodes_eq, Config.recognised] using hinv.event_pending hsi

/-- A lost arbitration has given up the bus (42_bus_engine.md R179). -/
theorem Inv.of_arbLost (hstat : s.stat = Config.arbLost) : s.owned = false ∧ s.sta = false := by
  simpa [hstat, statusCodes_eq, Config.recognised] using hinv.event_pending hsi

end

/-! ### How the effects keep it -/

section
variable {s t : State} {i : Instr}

theorem Inv.owned_of_last (hinv : Inv s) {p : Phase} (hlast : s.last = p) (hp : p ≠ .noPhase) :
    s.owned = true :=
  hinv.owned_iff.mpr (hlast ▸ hp)

/-- A byte is shifted in a transaction only (42_bus_engine.md R186 (e)). -/
theorem Inv.busy_of_owned (hinv : Inv s) (howned : s.owned = true) (hsto : s.sto = false) :
    s.busy = true := by
  by_contra hidle
  have hstop := hinv.idle_owned (Bool.eq_false_iff.mpr hidle) howned
  simp [hsto] at hstop

theorem Inv.cursor_lt_top (hinv : Inv s) : s.cursor.toNat < 4294967295 :=
  Nat.lt_of_le_of_lt hinv.cursor_le hinv.length_lt

/-- A terminal step that raises stop: the bus is still owned, and the transaction is over (41_event_fsm.md R141). -/
theorem Inv.stopped (hinv : Inv s) (hsta : s.sta = false) (howned : s.owned = true) {c : Word} (r : Word)
    (hc : c.toNat ≤ s.length.toNat) :
    Inv { s with cursor := c, sto := true, result := r, busy := false, si := false } :=
  { hinv with
    cursor_le := hc
    active_en := fun _ => hinv.active_en (.inl howned)
    idle_quiet := fun _ => ⟨rfl, hsta⟩
    idle_owned := fun _ _ => rfl
    stop_pending := fun _ => ⟨howned, rfl, nofun⟩
    start_pending := fun h => nomatch hsta.symm.trans h
    event_pending := nofun
    byte_ready := nofun }

/-- A step that emits buffer byte `c` leaves it ready to be shifted (41_event_fsm.md R143, R145). -/
theorem Inv.emitted (hinv : Inv s) (hsi : s.si = true) (hsta : s.sta = false)
    (hlast : s.last = .addr ∨ s.last = .data) {c : Word} {b : Byte} (hc : c.toNat < s.length.toNat)
    (hb : s.bufferByte c.toNat = some b) : Inv { s with cursor := c, dat := b, si := false } :=
  have hbusy := hinv.busy_of_pending hsi
  have hsto := hinv.sto_of_pending hsi
  { hinv with
    cursor_le := hc.le
    active_en := fun _ => hinv.active_en (.inr (.inl hsi))
    idle_quiet := fun h => nomatch hbusy.symm.trans h
    stop_pending := fun h => nomatch hsto.symm.trans h
    start_pending := fun h => nomatch hsta.symm.trans h
    event_pending := nofun
    byte_ready := fun _ _ _ => .inr ⟨hlast, hc, fun _ => hb⟩ }

/-- An answer taken off the bus: the answered byte is named by the code it raises (42_bus_engine.md R176, R182). -/
theorem Inv.shifted (hinv : Inv s) (hen : s.en = true) (hsi : s.si = false) (hsto : s.sto = false)
    (hsta : s.sta = false) (howned : s.owned = true) (acked : Bool) (wire : List BusEvent) :
    Inv { s with stat := byteCode s.last acked, last := bytePhase s.last, si := true, wire := wire } := by
  have hbusy := hinv.busy_of_owned howned hsto
  refine { hinv with
    owned_iff := ?_
    active_en := fun _ => hen
    idle_quiet := fun h => nomatch hbusy.symm.trans h
    stop_pending := fun h => nomatch hsto.symm.trans h
    start_pending := fun h => nomatch hsta.symm.trans h
    event_pending := fun _ => .inr (.inr ?_)
    byte_ready := nofun }
  · show s.owned = true ↔ bytePhase s.last ≠ .noPhase
    simp only [howned, bytePhase, true_iff]
    split <;> simp
  · show _ ∨ _ ∨ _
    rcases hinv.byte_ready hbusy hsi hsta with ⟨hlast, hcursor, hdat⟩ | ⟨hlast, hcursor, hdat⟩
    · refine .inl ⟨?_, by simp [bytePhase, hlast], hsta, hcursor, hdat⟩
      cases acked <;> simp [byteCode, hlast]
    · have hne : s.last ≠ .start := by rcases hlast with h | h <;> simp [h]
      refine .inr (.inl ⟨?_, by simp [bytePhase, hne], hsta, hcursor, hdat⟩)
      cases acked <;> simp [byteCode, hne]

/-- An unrecognised code in place of an event leaves the transaction where it was (42_bus_engine.md R180). -/
theorem Inv.replaced (hinv : Inv s) (hen : s.en = true) (hbusy : s.busy = true) (hsto : s.sto = false)
    (hstart : s.sta = true → s.owned = false) {c : Byte} (hc : Config.recognised c = false)
    (wire : List BusEvent) : Inv { s with stat := c, si := true, wire := wire } :=
  { hinv with
    active_en := fun _ => hen
    idle_quiet := fun h => nomatch hbusy.symm.trans h
    stop_pending := fun h => nomatch hsto.symm.trans h
    start_pending := fun h =>
      ⟨hbusy, (hinv.start_pending h).2.1, fun howned => absurd ((hstart h).symm.trans howned) nofun⟩
    event_pending := fun _ => .inl hc
    byte_ready := nofun }

/-- Memory, schedule, contexts and the fault mark are free, as long as the bytes of the buffer in flight stay or a
fault is marked (20_memory.md R68). -/
theorem Inv.registers_kept (hinv : Inv s) (o : Option FaultReason) {mem : Memory}
    (hmem : o = none → s.busy = true → ∀ a, s.bufbase.toNat ≤ a → a < s.bufbase.toNat + s.length.toNat →
      mem.read a = s.mem.read a) (cs : List HostContext) (rest : List Input) (n : Nat) :
    Inv { s with faultMark := s.faultMark.or o, mem := mem, contexts := cs, inputs := rest, openDraws := n } := by
  set t : State :=
    { s with faultMark := s.faultMark.or o, mem := mem, contexts := cs, inputs := rest, openDraws := n }
  have hdat : s.busy = true → s.cursor.toNat < s.length.toNat → (s.clean = true → s.datIsBufferByte) →
      t.clean = true → t.datIsBufferByte := by
    intro hbusy hlt hdat hclean
    obtain ⟨hmark, ho⟩ : s.faultMark = none ∧ o = none := by simpa [State.clean, t] using hclean
    have hread := hmem ho hbusy (s.bufbase.toNat + s.cursor.toNat) (Nat.le_add_right _ _) (by omega)
    have hbyte := hdat (by simp [State.clean, hmark])
    rw [State.datIsBufferByte, State.bufferByte, State.portRead_some] at hbyte ⊢
    exact ⟨hbyte.1, hread.trans hbyte.2⟩
  exact { hinv with
    event_pending := fun hsi => by
      rcases hinv.event_pending hsi with h | h | h | ⟨hstat, hlast, hsta, hlt, hb⟩ | h
      · exact .inl h
      · exact .inr (.inl h)
      · exact .inr (.inr (.inl h))
      · exact .inr (.inr (.inr (.inl ⟨hstat, hlast, hsta, hlt, hdat (hinv.busy_of_pending hsi) hlt hb⟩)))
      · exact .inr (.inr (.inr (.inr h)))
    byte_ready := fun hbusy hsi hsta =>
      (hinv.byte_ready hbusy hsi hsta).imp_right fun ⟨hlast, hlt, hb⟩ => ⟨hlast, hlt, hdat hbusy hlt hb⟩ }

/-- An accepted XFER finds the bus free or about to be freed by the last transaction's stop (40_host_interface.md
R118, 70_reset_and_hazards.md R238). -/
theorem Inv.armed (hinv : Inv s) (hidle : s.busy = false) (hlen : s.argLen ≠ 0xFFFFFFFF)
    (hfits : s.argBuf.toNat + s.argLen.toNat ≤ 4294967296) : Inv (s.arm.respond true) :=
  { hinv with
    cursor_le := Nat.zero_le _
    length_lt := by
      have hne := State.argLen_eq_top_iff.not.mp hlen
      have hlt := s.argLen.isLt
      show s.argLen.toNat < 4294967295
      omega
    buffer_fits := hfits
    sla_write := slaByte_dir s.argAddr
    idle_quiet := nofun
    idle_owned := nofun
    stop_pending := fun h =>
      let ⟨howned, hsi, _⟩ := hinv.stop_pending h
      ⟨howned, hsi, fun _ => rfl⟩
    start_pending := fun _ => ⟨rfl, rfl, fun howned => .inl (hinv.idle_owned hidle howned)⟩
    event_pending := fun h => absurd ((hinv.idle_quiet hidle).1.symm.trans h) nofun
    byte_ready := nofun }

theorem Effect.inv_kept (h : Effect s i t) (hinv : Inv s) : Inv t := by
  cases h with
  | skip => exact hinv
  | startSent hsi _ hstat =>
    obtain ⟨hlast, hsta⟩ := hinv.of_startSent hsi hstat
    obtain ⟨hbusy, hcursor, _⟩ := hinv.start_pending hsta
    have hsto := hinv.sto_of_pending hsi
    exact { hinv with
      active_en := fun _ => hinv.active_en (.inr (.inl hsi))
      idle_quiet := fun h => nomatch hbusy.symm.trans h
      stop_pending := fun h => nomatch hsto.symm.trans h
      start_pending := nofun
      event_pending := nofun
      byte_ready := fun _ _ _ => .inl ⟨hlast, hcursor, rfl⟩ }
  | addrEmit b hsi _ hstat hlt hb =>
    obtain ⟨hlast, hsta, hcursor, _⟩ := hinv.of_addr hsi (.inl hstat)
    have hkept := hinv.emitted hsi hsta (.inl hlast) (c := s.cursor) hlt (by rw [hcursor]; exact hb)
    rwa [hsta] at hkept
  | addrEnd hsi _ hstat _ =>
    obtain ⟨hlast, hsta, _⟩ := hinv.of_addr hsi (.inl hstat)
    have hkept := hinv.stopped hsta (hinv.owned_of_last hlast nofun) s.cursor hinv.cursor_le
    rwa [hsta] at hkept
  | addrNack hsi _ hstat =>
    obtain ⟨hlast, hsta, _⟩ := hinv.of_addr hsi (.inr hstat)
    exact hinv.stopped hsta (hinv.owned_of_last hlast nofun) _ hinv.cursor_le
  | dataEmit _ b hadv hsi _ hlt hb =>
    obtain ⟨hlast, hsta, _⟩ := hinv.of_data hsi hadv.stat_eq
    exact hinv.emitted hsi hsta (.inr hlast) hlt hb
  | dataEnd _ hadv hsi _ _ =>
    obtain ⟨hlast, hsta, hlt, _⟩ := hinv.of_data hsi hadv.stat_eq
    exact hinv.stopped hsta (hinv.owned_of_last hlast nofun) _
      (by rw [State.nextCursor_toNat hinv.cursor_lt_top]; exact hlt)
  | dataStrict hsi _ hstat _ =>
    obtain ⟨hlast, hsta, _⟩ := hinv.of_data hsi (.inr hstat)
    exact hinv.stopped hsta (hinv.owned_of_last hlast nofun) _ hinv.cursor_le
  | arbLost hsi _ hstat =>
    obtain ⟨howned, _⟩ := hinv.of_arbLost hsi hstat
    exact { hinv with
      aa_clear := rfl
      active_en := fun _ => hinv.active_en (.inr (.inl hsi))
      idle_quiet := fun _ => ⟨rfl, rfl⟩
      idle_owned := fun _ h => nomatch howned.symm.trans h
      stop_pending := nofun
      start_pending := nofun
      event_pending := nofun
      byte_ready := nofun }
  | initDone => exact { hinv with irq_en := rfl, active_en := fun _ => rfl }
  | xferDone _ _ hidle hlen hfits => exact hinv.armed hidle hlen hfits
  | refused | read | argFreq | argPrio | argAddr | argBuf | argLen => exact { hinv with }
  | fault _ r => exact hinv.registers_kept (some r) nofun s.contexts s.inputs s.openDraws
  | stop _ hsi hsto =>
    obtain ⟨_, _, hstart⟩ := hinv.stop_pending hsto
    exact { hinv with
      owned_iff := by simp
      active_en := fun h => by simp_all
      idle_owned := nofun
      stop_pending := nofun
      start_pending := fun h =>
        let ⟨hbusy, hcursor, _⟩ := hinv.start_pending h
        ⟨hbusy, hcursor, nofun⟩
      event_pending := fun h => nomatch hsi.symm.trans h
      byte_ready := fun hbusy _ h => absurd ((hstart hbusy).symm.trans h) nofun }
  | stoidle _ _ hsto howned =>
    obtain ⟨hown, _⟩ := hinv.stop_pending hsto
    simp [howned] at hown
  | start hen _ hsto hsta _ =>
    obtain ⟨hbusy, hcursor, _⟩ := hinv.start_pending hsta
    exact { hinv with
      owned_iff := by simp
      active_en := fun _ => hen
      idle_quiet := fun h => nomatch hbusy.symm.trans h
      idle_owned := fun h => nomatch hbusy.symm.trans h
      stop_pending := fun h => nomatch hsto.symm.trans h
      start_pending := fun _ => ⟨hbusy, hcursor, fun _ => .inr ⟨rfl, rfl, rfl⟩⟩
      event_pending := fun _ => .inr (.inl ⟨rfl, rfl, hsta⟩)
      byte_ready := nofun }
  | startOther c hen _ hsto hsta howned _ hc =>
    obtain ⟨hbusy, _⟩ := hinv.start_pending hsta
    exact hinv.replaced hen hbusy hsto (fun _ => howned) hc _
  | byte acked _ _ hen hsi hsto hsta howned _ => exact hinv.shifted hen hsi hsto hsta howned acked _
  | byteArb hen _ hsto hsta howned _ _ =>
    have hbusy := hinv.busy_of_owned howned hsto
    exact { hinv with
      owned_iff := by simp
      active_en := fun _ => hen
      idle_quiet := fun h => nomatch hbusy.symm.trans h
      idle_owned := nofun
      stop_pending := fun h => nomatch hsto.symm.trans h
      start_pending := fun h => nomatch hsta.symm.trans h
      event_pending := fun _ => .inr (.inr (.inr (.inr ⟨rfl, rfl, hsta⟩)))
      byte_ready := nofun }
  | byteOther c hen _ hsto hsta howned _ _ hc =>
    exact hinv.replaced hen (hinv.busy_of_owned howned hsto) hsto
      (fun h => nomatch hsta.symm.trans h) hc _
  | rstart _ hsi hsto hsta howned =>
    obtain ⟨_, _, hstart⟩ := hinv.start_pending hsta
    rcases hstart howned with h | ⟨h, _⟩
    · simp [hsto] at h
    · simp [hsi] at h

end

/-! ### How the turns keep it -/

/-- A host write that misses the buffer in flight leaves its bytes outside the write (20_memory.md R68). -/
theorem State.buffer_outside_write {s : State} {addr size a : Nat} (hbusy : s.busy = true)
    (hmiss : s.touchesBuffer addr size = false) (hlo : s.bufbase.toNat ≤ a)
    (hhi : a < s.bufbase.toNat + s.length.toNat) : a < addr ∨ addr + size ≤ a := by
  have htouch := (s.touchesBuffer_iff addr size).not.mp (Bool.eq_false_iff.mp hmiss)
  by_contra hin
  exact htouch ⟨hbusy, by omega, by omega, by omega, by omega⟩

theorem step_inv_kept {s t : State} (hinv : Inv s) (h : step s = .next t) : Inv t := by
  rcases step_cases h with ⟨_, rfl⟩ | ⟨inp, rest, u, cs, _, rfl, hturn⟩
  · exact hinv
  rcases hturn with ⟨i, _, hexec⟩ | ⟨r, _, rfl⟩ | ⟨a, bs, hact, rfl⟩ | ⟨a, n, _, rfl⟩ |
    ⟨a, n, hact, rfl⟩ | ⟨_, rfl⟩
  · have hu : Inv u := (effect_of_exec hexec).inv_kept { hinv with }
    exact { hu with }
  · exact hinv.registers_kept (some r) nofun cs rest s.openDraws
  · obtain ⟨_, hmiss⟩ := State.action_memWrite hact
    have hkept := hinv.registers_kept none (fun _ hbusy k hlo hhi => Memory.read_writeBytes_other s.mem bs
      (State.buffer_outside_write hbusy hmiss hlo hhi)) cs rest s.openDraws
    rwa [Option.or_none] at hkept
  · exact hinv.registers_kept (some .bufHazard) nofun cs rest _
  · obtain ⟨haddr, hmiss⟩ := State.action_edge hact
    have hkept := hinv.registers_kept none (fun _ hbusy k hlo hhi => s.read_disturb_other haddr.le
      (State.buffer_outside_write hbusy hmiss hlo hhi)) cs rest (s.disturb a n).openDraws
    rwa [Option.or_none] at hkept
  · exact { hinv with }

/-! ### A transaction hung on an unrecognised code -/

theorem State.hungOnOther_iff (s : State) :
    s.hungOnOther = true ↔ s.busy = true ∧ s.si = true ∧ Config.recognised s.stat = false := by
  simp [State.hungOnOther, and_assoc]

/-- What a hung transaction shows is the same in both states (60_exceptions.md R207). -/
structure SameTransaction (s t : State) : Prop where
  busy : t.busy = s.busy
  si : t.si = s.si
  stat : t.stat = s.stat
  cursor : t.cursor = s.cursor
  result : t.result = s.result
  sta : t.sta = s.sta
  sto : t.sto = s.sto
  dat : t.dat = s.dat
  owned : t.owned = s.owned
  last : t.last = s.last
  wire : t.wire = s.wire

theorem SameTransaction.trans {s t u : State} (h : SameTransaction s t) (h' : SameTransaction t u) :
    SameTransaction s u := by
  constructor
  exacts [h'.busy.trans h.busy, h'.si.trans h.si, h'.stat.trans h.stat, h'.cursor.trans h.cursor,
    h'.result.trans h.result, h'.sta.trans h.sta, h'.sto.trans h.sto, h'.dat.trans h.dat,
    h'.owned.trans h.owned, h'.last.trans h.last, h'.wire.trans h.wire]

theorem SameTransaction.hungOnOther {s t : State} (h : SameTransaction s t) (hung : s.hungOnOther = true) :
    t.hungOnOther = true := by
  rwa [State.hungOnOther, h.busy, h.si, h.stat]

/-- The commands are refused while BUSY = 1, the handlers with an effect are those of the recognised codes, and the
engine waits for SI = 0 (41_event_fsm.md R149). -/
theorem Effect.sameTransaction_of_hungOnOther {s t : State} {i : Instr} (h : Effect s i t)
    (hung : s.hungOnOther = true) : SameTransaction s t := by
  obtain ⟨hbusy, hsi, hstat⟩ := s.hungOnOther_iff.mp hung
  obtain ⟨_, _, _, hack, hnack, _⟩ := (Config.recognised_eq_false_iff s.stat).mp hstat
  cases h with
  | skip | refused | fault | read | argFreq | argPrio | argAddr | argBuf | argLen => constructor <;> rfl
  | initDone | xferDone => simp_all  -- needs BUSY = 0
  | startSent | addrEmit | addrEnd | addrNack | dataStrict | arbLost =>
    simp_all [Config.recognised_eq_false_iff]  -- needs a recognised code
  | dataEmit _ _ hadv | dataEnd _ hadv => exact absurd hadv.stat_eq (not_or.mpr ⟨hack, hnack⟩)
  | stop | stoidle | start | startOther | byte | byteArb | byteOther | rstart => simp_all  -- needs SI = 0

theorem step_sameTransaction_of_hungOnOther {s t : State} (hung : s.hungOnOther = true)
    (h : step s = .next t) : SameTransaction s t := by
  rcases step_run_or_registers_kept h with ⟨_, _, _, _, _, _, _, heff, rfl⟩ | ⟨_, _, _, _, _, rfl⟩
  · exact { heff.sameTransaction_of_hungOnOther hung with }
  · constructor <;> rfl

/-! ### The obligations -/

/-- Settles O47: an instruction keeps the invariant by the case of its effect, and a host write to memory leaves the
buffer in flight as it was or marks a fault. -/
theorem everyStepKeepsInvariant : Obligations.EveryStepKeepsInvariant := fun _ _ hinv h => step_inv_kept hinv h

/-- Settles O48: the code pending selects the invariant's clause on it. -/
theorem eventsBelongToTheTransaction : Obligations.EventsBelongToTheTransaction := by
  intro s hinv
  refine ⟨hinv.cursor_le, fun hsi => ?_⟩
  have hbusy := hinv.busy_of_pending hsi
  refine ⟨fun haddr => ?addr, fun hdata => ?data, fun hstart => ?start, fun _ => hbusy⟩
  case addr =>
    obtain ⟨_, _, hcursor, _⟩ := hinv.of_addr hsi haddr
    exact ⟨hcursor, hbusy⟩
  case data =>
    obtain ⟨_, _, hlt, hdat⟩ := hinv.of_data hsi hdata
    exact ⟨hbusy, hlt, fun hclean => (State.portRead_some.mp (hdat hclean)).2⟩
  case start =>
    obtain ⟨_, hsta⟩ := hinv.of_startSent hsi hstart
    exact ⟨hbusy, (hinv.start_pending hsta).2.1⟩

/-- Settles O54: the hung transaction is the same after every step, and so is that it hangs. -/
theorem unrecognisedCodeHangs : Obligations.UnrecognisedCodeHangs := by
  intro k s t hbusy hsi hstat hrun
  have hung := s.hungOnOther_iff.mpr ⟨hbusy, hsi, hstat⟩
  have hsame : SameTransaction s t := by
    refine run_induction (P := SameTransaction s) (fun u v hu hstep => ?_) (by constructor <;> rfl) hrun
    exact hu.trans (step_sameTransaction_of_hungOnOther (hu.hungOnOther hung) hstep)
  exact ⟨hsame.busy.trans hbusy, hsame.si.trans hsi, hsame.stat, hsame.cursor, hsame.result, hsame.sta,
    hsame.sto, hsame.dat, hsame.owned, hsame.last, hsame.wire⟩

end Sys2Proof.Machine

/-!
SUPPORT. The handlers of the event FSM one by one: the step each makes when its event is pending and enabled, what no
handler writes, the one byte of host memory an instruction can depend on, and the obligations about them
(41_event_fsm.md R140 to R149, R152).
-/
namespace Sys2Proof.Machine

/-! ### A handler whose event is pending -/

theorem State.takeWhen_of_guard {s t : State} {g : Bool} (h : g = true) : s.takeWhen g t = .next t := by
  rw [h, State.takeWhen_true]

theorem State.emitBuffer_of_some {s t : State} {i : Nat} {b : Byte} (h : s.bufferByte i = some b) :
    s.emitBuffer t i = { t with dat := b, si := false } := by
  simp only [State.emitBuffer, h, State.emit, State.clearEvent]

/-- The byte at BUFBASE, whose address is in the address space whatever the buffer (20_memory.md R60, R66). -/
theorem State.bufferByte_zero (s : State) : s.bufferByte 0 = s.mem.read s.bufbase.toNat := by
  rw [State.bufferByte, State.portRead, Nat.add_zero, if_pos s.bufbase.isLt]

/-- A word one above CURSOR is the advanced cursor. -/
theorem State.nextCursor_eq {s : State} {c : Word} (hc : c.toNat = s.cursor.toNat + 1) : s.nextCursor = c := by
  have hlt := c.isLt
  exact BitVec.eq_of_toNat_eq ((State.nextCursor_toNat (by omega)).trans hc.symm)

section
variable {s : State} {b : Byte}

theorem State.advance_of_lt (hlt : s.nextCursor < s.length) (hb : s.bufferByte s.nextCursor.toNat = some b) :
    s.advance = { s with cursor := s.nextCursor, dat := b, si := false } := by
  rw [State.advance, if_pos hlt, State.emitBuffer_of_some hb]

theorem State.advance_of_le (hle : ¬ s.nextCursor < s.length) :
    s.advance = { s with cursor := s.nextCursor, sto := true, result := s.nextCursor, busy := false,
                         si := false } := by
  rw [State.advance, if_neg hle]
  rfl

/-- The pseudocode of R145, on numbers: what DATA_ACK and DATA_NACK_IGNORE share. -/
theorem State.advance_effect {c : Word} (hc : c.toNat = s.cursor.toNat + 1) :
    (c.toNat < s.length.toNat → s.bufbase.toNat + c.toNat < 2 ^ 32 →
      s.mem.read (s.bufbase.toNat + c.toNat) = some b →
      s.advance = { s with cursor := c, dat := b, si := false }) ∧
    (s.length.toNat ≤ c.toNat →
      s.advance = { s with cursor := c, sto := true, result := c, busy := false, si := false }) := by
  obtain rfl := State.nextCursor_eq hc
  constructor
  · intro hlt haddr hread
    exact State.advance_of_lt hlt (State.portRead_some.mpr ⟨haddr, hread⟩)
  · intro hle
    exact State.advance_of_le (Nat.not_lt.mpr hle)

variable (hsi : s.si = true) (hirq : s.irqEn = true)
include hsi hirq

theorem execSvcStartSent_of_pending (hstat : s.stat = Config.startSent) :
    execSvcStartSent s = .next { s with dat := s.sla, sta := false, si := false } :=
  State.takeWhen_of_guard ((s.servicing_iff _).mpr ⟨hsi, hirq, hstat⟩)

theorem execSvcAddrAck_of_pending (hstat : s.stat = Config.addrAck) (hlt : s.cursor < s.length)
    (hb : s.bufferByte 0 = some b) :
    execSvcAddrAck s = .next { s with dat := b, sta := false, si := false } := by
  rw [execSvcAddrAck, if_pos hlt, State.emitBuffer_of_some hb]
  exact State.takeWhen_of_guard ((s.servicing_iff _).mpr ⟨hsi, hirq, hstat⟩)

theorem execSvcAddrAck_of_end (hstat : s.stat = Config.addrAck) (hle : ¬ s.cursor < s.length) :
    execSvcAddrAck s =
      .next { s with sta := false, sto := true, result := s.cursor, busy := false, si := false } := by
  rw [execSvcAddrAck, if_neg hle]
  exact State.takeWhen_of_guard ((s.servicing_iff _).mpr ⟨hsi, hirq, hstat⟩)

theorem execSvcAddrNack_of_pending (hstat : s.stat = Config.addrNack) :
    execSvcAddrNack s =
      .next { s with sto := true, result := Config.sentinel, busy := false, si := false } :=
  State.takeWhen_of_guard ((s.servicing_iff _).mpr ⟨hsi, hirq, hstat⟩)

theorem execSvcDataAck_of_pending (hstat : s.stat = Config.dataAck) : execSvcDataAck s = .next s.advance :=
  State.takeWhen_of_guard ((s.servicing_iff _).mpr ⟨hsi, hirq, hstat⟩)

theorem execSvcDataNackStrict_of_pending (hstat : s.stat = Config.dataNack)
    (hstrict : s.build.ignoreDataNack = false) :
    execSvcDataNackStrict s =
      .next { s with sto := true, result := s.cursor, busy := false, si := false } := by
  have hserv := (s.servicing_iff _).mpr ⟨hsi, hirq, hstat⟩
  exact State.takeWhen_of_guard (by rw [hserv, hstrict]; rfl)

theorem execSvcDataNackIgnore_of_pending (hstat : s.stat = Config.dataNack)
    (hignore : s.build.ignoreDataNack = true) : execSvcDataNackIgnore s = .next s.advance := by
  have hserv := (s.servicing_iff _).mpr ⟨hsi, hirq, hstat⟩
  exact State.takeWhen_of_guard (by rw [hserv, hignore]; rfl)

theorem execSvcArbLost_of_pending (hstat : s.stat = Config.arbLost) :
    execSvcArbLost s = .next { s with sta := false, sto := false, aa := false, result := s.cursor,
                                      busy := false, si := false } :=
  State.takeWhen_of_guard ((s.servicing_iff _).mpr ⟨hsi, hirq, hstat⟩)

end

/-- An enabled event is serviced by the handler its code selects (41_event_fsm.md R140). -/
theorem step_of_pending {s : State} {rest : List Input} (hin : s.inputs = .service :: rest)
    (hsi : s.si = true) (hirq : s.irqEn = true) :
    step s = exec (decodeStatus s.build.ignoreDataNack s.stat) { s with inputs := rest } :=
  step_of_run hin nofun (State.action_service_of_pending hsi hirq)

/-! ### What no handler writes -/

theorem isHandler_of_isCommand {i : Instr} (h : IsCommand i = true) : IsHandler i = false := by
  cases i <;> simp_all [IsCommand, IsHandler]

/-- The handlers' frame (41_event_fsm.md R152), in terms of the two flags they only clear. -/
theorem Effect.handler_frame {s t : State} {i : Instr} (h : Effect s i t) (hi : IsHandler i = true) :
    ∃ cursor busy result dat sta sto si aa,
      t = { s with cursor := cursor, busy := busy, result := result, dat := dat, sta := sta, sto := sto,
                   si := si, aa := aa } ∧
      (aa = true → s.aa = true) ∧ (sta = true → s.sta = true) := by
  cases h with
  | skip | addrNack | dataEmit | dataEnd | dataStrict => exact ⟨_, _, _, _, _, _, _, _, rfl, id, id⟩
  | startSent | addrEmit | addrEnd => exact ⟨_, _, _, _, _, _, _, _, rfl, id, nofun⟩
  | arbLost => exact ⟨_, _, _, _, _, _, _, _, rfl, nofun, nofun⟩
  | initDone _ hruns | xferDone _ hruns => simp [isHandler_of_isCommand (hruns.isCommand rfl)] at hi
  | refused _ hcmd | fault _ _ hcmd => simp [isHandler_of_isCommand hcmd] at hi
  | _ => cases hi

/-! ### The byte an instruction reads -/

/-- The same state over another host memory. -/
def State.withMem (s : State) (m : Memory) : State := { s with mem := m }

section
variable {s : State} {m : Memory}

/-- The two memories give the pending handler the same byte, if it emits one. -/
def State.AgreesOnPending (s : State) (m : Memory) : Prop :=
  ∀ k, s.pendingIndex = some k → m.read (s.bufbase.toNat + k) = s.mem.read (s.bufbase.toNat + k)

theorem State.emitBuffer_withMem (t : State) {k : Nat} (hagree : s.AgreesOnPending m)
    (hk : s.pendingIndex = some k) :
    (s.withMem m).emitBuffer (t.withMem m) k = (s.emitBuffer t k).withMem m := by
  have hbyte : (s.withMem m).bufferByte k = s.bufferByte k := by
    simp only [State.bufferByte, State.portRead, State.withMem, hagree k hk]
  unfold State.emitBuffer
  rw [hbyte]
  cases s.bufferByte k <;> rfl

theorem State.advance_withMem (hagree : s.AgreesOnPending m)
    (hstat : s.stat = Config.dataAck ∨ (s.stat = Config.dataNack ∧ s.build.ignoreDataNack = true)) :
    (s.withMem m).advance = s.advance.withMem m := by
  by_cases hlt : s.nextCursor < s.length
  · have hk := (s.pendingIndex_eq_some_iff _).mpr (.inr ⟨hstat, hlt, rfl⟩)
    rw [State.advance, State.advance, if_pos hlt]
    exact (if_pos hlt).trans (State.emitBuffer_withMem { s with cursor := s.nextCursor } hagree hk)
  · rw [State.advance_of_le hlt]
    exact State.advance_of_le hlt

/-- A guarded step on two memories, when its guard does not read memory and its effect agrees on them. -/
theorem State.takeWhen_withMem {t t' u : State} {g : Bool} (ht : g = true → t' = t.withMem m)
    (h : s.takeWhen g t = .next u) : (s.withMem m).takeWhen g t' = .next (u.withMem m) := by
  rcases State.takeWhen_next h with ⟨rfl, rfl⟩ | ⟨rfl, rfl⟩
  · rw [ht rfl, State.takeWhen_true]
  · rfl

/-- What INIT and XFER look at is no host memory (40_host_interface.md R115 to R119). -/
theorem State.withMem_operands (s : State) (m : Memory) :
    (s.withMem m).busy = s.busy ∧ (s.withMem m).build = s.build ∧ (s.withMem m).argFreq = s.argFreq ∧
    (s.withMem m).argBuf = s.argBuf ∧ (s.withMem m).argLen = s.argLen :=
  ⟨rfl, rfl, rfl, rfl, rfl⟩

theorem execInit_withMem {t : State} (h : execInit s = .next t) :
    execInit (s.withMem m) = .next (t.withMem m) := by
  simp only [execInit, State.withMem_operands] at h ⊢
  split_ifs at h ⊢ <;> cases h <;> rfl

theorem execXfer_withMem {t : State} (h : execXfer s = .next t) :
    execXfer (s.withMem m) = .next (t.withMem m) := by
  simp only [execXfer, State.withMem_operands] at h ⊢
  split_ifs at h ⊢ <;> cases h <;> rfl

theorem execHostWrCmd_withMem {t : State} {w : Word} (h : execHostWrCmd w s = .next t) :
    execHostWrCmd w (s.withMem m) = .next (t.withMem m) := by
  unfold execHostWrCmd at h ⊢
  split at h
  · exact execInit_withMem h
  · exact execXfer_withMem h
  all_goals cases h; rfl

end

/-! ### The obligations -/

/-- Settles O19: the six recognised codes select their handlers by evaluation of the decoder, and any other code is
one the decoder gives to OTHER. -/
theorem serviceDispatch : Obligations.ServiceDispatch := by
  intro s rest hin
  refine ⟨fun hoff => step_of_idle hin nofun (State.action_service_idle hoff), fun hsi hirq => ?_⟩
  have hrun : ∀ {c : Byte} {i : Instr}, s.stat = c → decodeStatus s.build.ignoreDataNack c = i →
      step s = exec i { s with inputs := rest } := by
    rintro c i rfl rfl
    exact step_of_pending hin hsi hirq
  refine ⟨fun h => hrun h rfl, fun h => hrun h rfl, fun h => hrun h rfl, fun h => hrun h rfl,
    fun h hcfg => hrun h (by rw [hcfg]; rfl), fun h hcfg => hrun h (by rw [hcfg]; rfl), fun h => hrun h rfl, ?_⟩
  intro h1 h2 h3 h4 h5 h6
  have hother := (Config.recognised_eq_false_iff s.stat).mpr ⟨h1, h2, h3, h4, h5, h6⟩
  exact hrun rfl (decodeStatus_of_unrecognised _ hother)

/-- Settles O30, by the frame of the handlers' effects. -/
theorem handlersFrame : Obligations.HandlersFrame := by
  intro i s t hexec hmem
  have hi : IsHandler i = true := by
    rcases hmem with hmem | ⟨c, rfl⟩
    · simp only [List.mem_cons, List.not_mem_nil, or_false] at hmem
      rcases hmem with rfl | rfl | rfl | rfl | rfl | rfl | rfl <;> rfl
    · rfl
  obtain ⟨_, _, _, _, _, _, _, _, rfl, haa, hsta⟩ := (effect_of_exec hexec).handler_frame hi
  exact ⟨rfl, rfl, rfl, rfl, rfl, rfl, rfl, rfl, rfl, rfl, rfl, rfl, rfl, rfl, rfl, rfl, rfl, rfl, rfl, rfl, rfl,
    haa, hsta⟩

/-- Settles O31: three handlers read memory, each at the pending index, and the effect of every other instruction
does not mention memory. -/
theorem handlersReadOneByte : Obligations.HandlersReadOneByte := by
  intro i s t m hexec hagree
  cases i with
  | svcAddrAck =>
    refine State.takeWhen_withMem (fun hserv => ?_) hexec
    obtain ⟨_, _, hstat⟩ := (s.servicing_iff _).mp hserv
    split
    · rename_i hlt
      have hk := (s.pendingIndex_eq_some_iff 0).mpr (.inl ⟨hstat, hlt, rfl⟩)
      exact State.emitBuffer_withMem { s with sta := false } hagree hk
    · rfl
  | svcDataAck =>
    refine State.takeWhen_withMem (fun hserv => ?_) hexec
    obtain ⟨_, _, hstat⟩ := (s.servicing_iff _).mp hserv
    exact State.advance_withMem hagree (.inl hstat)
  | svcDataNackIgnore =>
    refine State.takeWhen_withMem (fun hguard => ?_) hexec
    obtain ⟨hserv, hignore⟩ := Bool.and_eq_true_iff.mp hguard
    obtain ⟨_, _, hstat⟩ := (s.servicing_iff _).mp hserv
    exact State.advance_withMem hagree (.inr ⟨hstat, hignore⟩)
  | init => exact execInit_withMem hexec
  | xfer => exact execXfer_withMem hexec
  | hostWrCmd w => exact execHostWrCmd_withMem hexec
  | svcStartSent | svcAddrNack | svcDataNackStrict | svcArbLost | svcOther | eStop | eStoidle | eRstart =>
    exact State.takeWhen_withMem (fun _ => rfl) hexec
  | eStart other => cases other <;> exact State.takeWhen_withMem (fun _ => rfl) hexec
  | eByte draw => cases draw <;> exact State.takeWhen_withMem (fun _ => rfl) hexec
  | _ => cases hexec; rfl

/-- Settles O20: the event is pending, so the step is the handler's effect. -/
theorem startSentEffect : Obligations.StartSentEffect := fun _ hsi hirq hstat =>
  execSvcStartSent_of_pending hsi hirq hstat

/-- Settles O21: buffer byte 0 is the byte at BUFBASE. -/
theorem addrAckEffect : Obligations.AddrAckEffect := fun s _ hsi hirq hstat =>
  ⟨fun hlt hread => execSvcAddrAck_of_pending hsi hirq hstat hlt (s.bufferByte_zero.trans hread),
    fun hle => execSvcAddrAck_of_end hsi hirq hstat (Nat.not_lt.mpr hle)⟩

/-- Settles O22: the result the handler writes is the sentinel. -/
theorem addrNackEffect : Obligations.AddrNackEffect := fun _ hsi hirq hstat =>
  execSvcAddrNack_of_pending hsi hirq hstat

/-- Settles O23, by the pseudocode of R145. -/
theorem dataAckEffect : Obligations.DataAckEffect := by
  intro s c b hsi hirq hstat hc
  obtain ⟨hemit, hend⟩ := State.advance_effect (b := b) hc
  have hexec : exec .svcDataAck s = .next s.advance := execSvcDataAck_of_pending hsi hirq hstat
  exact ⟨fun hlt haddr hread => by rw [hexec, hemit hlt haddr hread], fun hle => by rw [hexec, hend hle]⟩

/-- Settles O24: the guard is the pending event and the strict policy. -/
theorem dataNackStrictEffect : Obligations.DataNackStrictEffect := fun _ hsi hirq hstat hstrict =>
  execSvcDataNackStrict_of_pending hsi hirq hstat hstrict

/-- Settles O25, by the pseudocode of R145. -/
theorem dataNackIgnoreEffect : Obligations.DataNackIgnoreEffect := by
  intro s c b hsi hirq hstat hignore hc
  obtain ⟨hemit, hend⟩ := State.advance_effect (b := b) hc
  have hexec : exec .svcDataNackIgnore s = .next s.advance :=
    execSvcDataNackIgnore_of_pending hsi hirq hstat hignore
  exact ⟨fun hlt haddr hread => by rw [hexec, hemit hlt haddr hread], fun hle => by rw [hexec, hend hle]⟩

/-- Settles O27: the event is pending, so the step is the handler's effect. -/
theorem arbLostEffect : Obligations.ArbLostEffect := fun _ hsi hirq hstat =>
  execSvcArbLost_of_pending hsi hirq hstat

/-- Settles O28: the effect of OTHER is the state itself. -/
theorem otherChangesNothing : Obligations.OtherChangesNothing := fun s _ _ _ _ _ _ _ _ _ _ =>
  s.takeWhen_self _

end Sys2Proof.Machine

/-!
SUPPORT. The run of a transfer, two turns at a time: the engine's step that raises an event and the FSM's step that
services it; and the obligations about what a transfer returns (41_event_fsm.md R153; 95_test_vectors.md W1 to W5).
-/
namespace Sys2Proof.Machine

/-! ### The engine's choice -/

theorem engineSelect_of_startOk {f : EngineFlags} (h : f.startOk = true) (d : Draw) :
    engineSelect f d = some (.eStart d.replacing) := by
  have hsto : f.sto = false := by simp_all [EngineFlags.startOk]
  simp [engineSelect, EngineFlags.stop, EngineFlags.stoidle, hsto, h]

theorem engineSelect_of_byteOk {f : EngineFlags} (h : f.byteOk = true) (d : Draw) :
    engineSelect f d = some (.eByte d) := by
  obtain ⟨hsto, hsta⟩ : f.sto = false ∧ f.sta = false := by simp_all [EngineFlags.byteOk]
  simp [engineSelect, EngineFlags.stop, EngineFlags.stoidle, EngineFlags.startOk, EngineFlags.rstart, hsto, hsta, h]

/-! ### Two turns of a run -/

theorem run_add {m : Nat} {s t : State} (h : Host.Core.run Sys2Proof.core m s = .next t) (n : Nat) :
    Host.Core.run Sys2Proof.core (m + n) s = Host.Core.run Sys2Proof.core n t := by
  induction m generalizing s with
  | zero =>
    cases h
    rw [Nat.zero_add]
  | succ m ih =>
    obtain ⟨u, hu⟩ := step_completes s
    rw [run_succ_of_step hu] at h
    rw [Nat.succ_add, run_succ_of_step hu, ih h]

section
variable {s t u : State} {d : Draw} {ds : List Draw} {rest : List Input}

/-- An engine step that raises an event, and the handler of that event (41_event_fsm.md R153). -/
theorem run_engine_service {i : Instr} (hin : s.inputs = scriptOf (d :: ds) ++ rest)
    (hsel : engineSelect s.engineFlags d = some i)
    (hengine : exec i { s with inputs := .service :: (scriptOf ds ++ rest) } = .next u)
    (hsi : u.si = true) (hirq : u.irqEn = true)
    (hserv : exec (decodeStatus u.build.ignoreDataNack u.stat) { u with inputs := scriptOf ds ++ rest } = .next t) :
    Host.Core.run Sys2Proof.core 2 s = .next t := by
  have hact : s.action (.engine d) = .run i := by rw [State.action, hsel, actionOf]
  have hstep : step s = .next u := (step_of_run hin nofun hact).trans hengine
  obtain ⟨_, hu⟩ := (effect_of_exec hengine).mem_inputs_eq
  have hstep' : step u = .next t := (step_of_pending hu hsi hirq).trans hserv
  rw [run_succ_of_step hstep, run_succ_of_step hstep']
  rfl

/-! ### The start -/

/-- The start made and serviced: SLA is in DAT, the start request withdrawn (41_event_fsm.md R142, 42_bus_engine.md
R175). -/
def State.addressed (s : State) (inputs : List Input) : State :=
  { s with owned := true, last := .start, stat := Config.startSent, dat := s.sla, sta := false, si := false,
           wire := .start :: s.wire, inputs := inputs }

theorem run_start (hready : ReadyToStart s) (hin : s.inputs = scriptOf (.ack :: ds) ++ rest) :
    Host.Core.run Sys2Proof.core 2 s = .next (s.addressed (scriptOf ds ++ rest)) := by
  obtain ⟨hen, hirq, _, hsta, hsto, hsi, howned, _⟩ := hready
  have hguard : s.engineFlags.startOk = true := by
    simp [EngineFlags.startOk, State.engineFlags, hen, hsta, hsto, hsi, howned]
  exact run_engine_service hin (engineSelect_of_startOk hguard .ack) (State.takeWhen_of_guard hguard) rfl hirq
    (execSvcStartSent_of_pending rfl hirq rfl)

/-! ### A byte and its answer -/

/-- The bus is held and a byte is about to be shifted (42_bus_engine.md R172, the guard of E.byte). -/
structure ReadyToShift (s : State) : Prop where
  en : s.en = true
  irqEn : s.irqEn = true
  busy : s.busy = true
  sta : s.sta = false
  sto : s.sto = false
  si : s.si = false
  owned : s.owned = true
  moved : s.last ≠ .noPhase

/-- The two answers a target gives to a byte (42_bus_engine.md R178). -/
def answer (acked : Bool) : Draw := if acked then .ack else .nack

/-- The byte in DAT shifted out and answered, its event pending (42_bus_engine.md R176). -/
def State.answered (s : State) (acked : Bool) (inputs : List Input) : State :=
  { s with stat := byteCode s.last acked, last := bytePhase s.last, si := true,
           wire := .byte s.dat (answer acked) :: s.wire, inputs := inputs }

/-- An answered byte and its service, whatever the handler. -/
theorem run_byte (hready : ReadyToShift s) {acked : Bool} (hin : s.inputs = scriptOf (answer acked :: ds) ++ rest)
    (hserv : exec (decodeStatus s.build.ignoreDataNack (byteCode s.last acked))
      (s.answered acked (scriptOf ds ++ rest)) = .next t) :
    Host.Core.run Sys2Proof.core 2 s = .next t := by
  obtain ⟨hen, hirq, _, hsta, hsto, hsi, howned, hmoved⟩ := hready
  have hguard : s.engineFlags.byteOk = true := by
    simp [EngineFlags.byteOk, State.engineFlags, hen, hsta, hsto, hsi, howned, hmoved]
  have hengine : exec (.eByte (answer acked)) { s with inputs := .service :: (scriptOf ds ++ rest) } =
      .next (s.answered acked (.service :: (scriptOf ds ++ rest))) := by
    cases acked <;> exact State.takeWhen_of_guard (by rw [Bool.and_eq_true]; exact ⟨hguard, rfl⟩)
  exact run_engine_service hin (engineSelect_of_byteOk hguard _) hengine rfl hirq hserv

/-! ### How a transfer ends and goes on -/

/-- The transaction is over with this result, and its stop is asked for (41_event_fsm.md R141). -/
structure Returns (t : State) (r : Word) (rest : List Input) : Prop where
  busy : t.busy = false
  result : t.result = r
  sto : t.sto = true
  si : t.si = false
  inputs : t.inputs = rest

/-- Between `s` and `t` the cursor passed `n` bytes and the bus carried these events, oldest first. -/
structure Carried (s t : State) (n : Nat) (events : List BusEvent) : Prop where
  length : t.length = s.length
  build : t.build = s.build
  faultMark : t.faultMark = s.faultMark
  cursor : t.cursor.toNat = s.cursor.toNat + n
  wire : t.wire = events.reverse ++ s.wire

theorem Carried.refl (s : State) : Carried s s 0 [] := by constructor <;> rfl

theorem Carried.trans {m n : Nat} {es fs : List BusEvent} (h : Carried s t m es) (h' : Carried t u n fs) :
    Carried s u (m + n) (es ++ fs) where
  length := h'.length.trans h.length
  build := h'.build.trans h.build
  faultMark := h'.faultMark.trans h.faultMark
  cursor := by rw [h'.cursor, h.cursor, Nat.add_assoc]
  wire := by rw [h'.wire, h.wire, List.reverse_append, List.append_assoc]

/-- The data phase: `bytes` are the next bytes of the buffer, the first of them in DAT (41_event_fsm.md R150 (c)). -/
structure Sending (s : State) (bytes : List Byte) : Prop extends ReadyToShift s where
  data : s.last ≠ .start
  dat : bytes.head? = some s.dat
  buffer : ∀ i, i < bytes.length → s.bufferByte (s.cursor.toNat + i) = bytes[i]?
  fits : s.cursor.toNat + bytes.length ≤ s.length.toNat

/-! ### The address phase -/

theorem ReadyToStart.addressed (hready : ReadyToStart s) (inputs : List Input) :
    ReadyToShift (s.addressed inputs) where
  en := hready.en
  irqEn := hready.irqEn
  busy := hready.busy
  sta := rfl
  sto := hready.sto
  si := rfl
  owned := rfl
  moved := nofun

theorem ReadyToStart.cursor_toNat (hready : ReadyToStart s) : s.cursor.toNat = 0 := by
  rw [hready.cursor]
  rfl

section
variable (hready : ReadyToStart s)
include hready

/-- The start and an answered address byte, whatever the handler of the answer. -/
theorem run_address {acked : Bool} (hin : s.inputs = scriptOf (.ack :: answer acked :: ds) ++ rest)
    (hserv : exec (decodeStatus s.build.ignoreDataNack (byteCode .start acked))
      ((s.addressed []).answered acked (scriptOf ds ++ rest)) = .next t) :
    Host.Core.run Sys2Proof.core 4 s = .next t := by
  rw [run_add (run_start hready hin) 2]
  exact run_byte (hready.addressed _) rfl hserv

/-- With no byte to send, the acknowledged address ends the transfer (41_event_fsm.md R143). -/
theorem run_address_of_empty (hlen : s.length.toNat = 0) (hin : s.inputs = scriptOf [.ack, .ack] ++ rest) :
    ∃ t, Host.Core.run Sys2Proof.core 4 s = .next t ∧ Returns t s.cursor rest ∧
      Carried s t 0 [.start, .byte s.sla .ack] := by
  have hle : ¬ s.cursor < s.length := by rw [BitVec.lt_def, hlen]; exact Nat.not_lt_zero _
  have hserv := execSvcAddrAck_of_end (s := (s.addressed []).answered true rest) rfl hready.irqEn rfl hle
  have hrun := run_address (acked := true) (ds := []) hready hin hserv
  exact ⟨_, hrun, ⟨rfl, rfl, rfl, rfl, rfl⟩, ⟨rfl, rfl, rfl, rfl, rfl⟩⟩

/-- The acknowledged address: the first of `bytes` is emitted (41_event_fsm.md R143). -/
theorem run_address_acked {bytes : List Byte} (hne : bytes ≠ []) (hlen : bytes.length ≤ s.length.toNat)
    (hbuf : ∀ i, i < bytes.length → s.bufferByte i = bytes[i]?)
    (hin : s.inputs = scriptOf (.ack :: .ack :: ds) ++ rest) :
    ∃ t, Host.Core.run Sys2Proof.core 4 s = .next t ∧ Sending t bytes ∧
      Carried s t 0 [.start, .byte s.sla .ack] ∧ t.inputs = scriptOf ds ++ rest := by
  obtain ⟨b, bytes, rfl⟩ := List.exists_cons_of_ne_nil hne
  have hpos := List.length_pos_of_ne_nil hne
  have hzero := hready.cursor_toNat
  have hlen' : s.cursor.toNat + (b :: bytes).length ≤ s.length.toNat := by rwa [hzero, Nat.zero_add]
  have hbuf' : ∀ i, i < (b :: bytes).length → s.bufferByte (s.cursor.toNat + i) = (b :: bytes)[i]? := fun i hi => by
    rw [hzero, Nat.zero_add, hbuf i hi]
  have hlt : s.cursor < s.length := by rw [BitVec.lt_def, hzero]; exact Nat.lt_of_lt_of_le hpos hlen
  have hserv := execSvcAddrAck_of_pending (s := (s.addressed []).answered true (scriptOf ds ++ rest))
    rfl hready.irqEn rfl hlt (hbuf 0 hpos)
  have hrun := run_address (acked := true) hready hin hserv
  refine ⟨_, hrun, ?_, ⟨rfl, rfl, rfl, rfl, rfl⟩, rfl⟩
  exact { hready with
    sta := rfl
    si := rfl
    owned := rfl
    moved := nofun
    data := nofun
    dat := rfl
    buffer := hbuf'
    fits := hlen' }

/-- A refused address ends the transfer with the sentinel (41_event_fsm.md R144). -/
theorem run_address_refused (hin : s.inputs = scriptOf [.ack, .nack] ++ rest) :
    ∃ t, Host.Core.run Sys2Proof.core 4 s = .next t ∧ Returns t Config.sentinel rest ∧
      Carried s t 0 [.start, .byte s.sla .nack] := by
  have hserv := execSvcAddrNack_of_pending (s := (s.addressed []).answered false rest) rfl hready.irqEn rfl
  have hrun := run_address (acked := false) (ds := []) hready hin hserv
  exact ⟨_, hrun, ⟨rfl, rfl, rfl, rfl, rfl⟩, ⟨rfl, rfl, rfl, rfl, rfl⟩⟩

end

/-! ### The data phase -/

/-- The answers under which the transfer goes on: an ACK, or a NACK the policy ignores (41_event_fsm.md R147). -/
def State.GoesOn (s : State) (d : Draw) : Prop := d = .ack ∨ (d = .nack ∧ s.build.ignoreDataNack = true)

theorem Carried.goesOn {n : Nat} {events : List BusEvent} (h : Carried s t n events) (hgo : s.GoesOn d) :
    t.GoesOn d := by
  rwa [State.GoesOn, h.build]

section
variable {b : Byte} {bytes : List Byte}

theorem Sending.dat_eq (hsend : Sending s (b :: bytes)) : s.dat = b := by
  simpa using hsend.dat.symm

/-- After such an answer the handler advances the cursor, with DATA_ACK or with DATA_NACK_IGNORE. -/
theorem run_byte_advance (hsend : Sending s bytes) (hgo : s.GoesOn d)
    (hin : s.inputs = scriptOf (d :: ds) ++ rest) :
    ∃ acked, d = answer acked ∧
      Host.Core.run Sys2Proof.core 2 s = .next (s.answered acked (scriptOf ds ++ rest)).advance := by
  rcases hgo with rfl | ⟨rfl, hignore⟩
  · have hcode : byteCode s.last true = Config.dataAck := if_neg hsend.data
    have hserv := execSvcDataAck_of_pending (s := s.answered true (scriptOf ds ++ rest)) rfl hsend.irqEn hcode
    exact ⟨true, rfl, run_byte hsend.toReadyToShift hin (by rw [hcode]; exact hserv)⟩
  · have hcode : byteCode s.last false = Config.dataNack := if_neg hsend.data
    have hserv := execSvcDataNackIgnore_of_pending (s := s.answered false (scriptOf ds ++ rest)) rfl hsend.irqEn hcode
      hignore
    exact ⟨false, rfl, run_byte hsend.toReadyToShift hin (by rw [hcode, hignore]; exact hserv)⟩

theorem Sending.nextCursor_toNat (hsend : Sending s (b :: bytes)) : s.nextCursor.toNat = s.cursor.toNat + 1 := by
  have hfits := hsend.fits
  have hlt := s.length.isLt
  simp only [List.length_cons] at hfits
  exact State.nextCursor_toNat (by omega)

/-- A byte that is not the last goes out, and the next one is emitted (41_event_fsm.md R145). -/
theorem run_data_byte (hsend : Sending s (b :: bytes)) (hne : bytes ≠ []) (hgo : s.GoesOn d)
    (hin : s.inputs = scriptOf (d :: ds) ++ rest) :
    ∃ t, Host.Core.run Sys2Proof.core 2 s = .next t ∧ Sending t bytes ∧ Carried s t 1 [.byte b d] ∧
      t.inputs = scriptOf ds ++ rest := by
  obtain ⟨acked, rfl, hrun⟩ := run_byte_advance hsend hgo hin
  obtain ⟨b', bytes, rfl⟩ := List.exists_cons_of_ne_nil hne
  have hnext := hsend.nextCursor_toNat
  have hfits := hsend.fits
  simp only [List.length_cons] at hfits
  have hlt : s.nextCursor < s.length := by rw [BitVec.lt_def, hnext]; omega
  have hbyte : s.bufferByte s.nextCursor.toNat = some b' := by
    rw [hnext]
    exact hsend.buffer 1 (by simp)
  rw [State.advance_of_lt (s := s.answered acked (scriptOf ds ++ rest)) hlt hbyte] at hrun
  refine ⟨_, hrun, ?sending, ⟨rfl, rfl, rfl, hnext, ?wire⟩, rfl⟩
  case sending =>
    exact { hsend with
      si := rfl
      moved := by simp [State.answered, bytePhase, hsend.data]
      data := by simp [State.answered, bytePhase, hsend.data]
      dat := rfl
      buffer := fun i hi => by
        have hread := hsend.buffer (i + 1) (Nat.succ_lt_succ hi)
        rw [show s.cursor.toNat + (i + 1) = s.nextCursor.toNat + i by omega] at hread
        exact hread
      fits := by
        show s.nextCursor.toNat + (bytes.length + 1) ≤ s.length.toNat
        omega }
  case wire => rw [← hsend.dat_eq]; rfl

/-- The last byte of the buffer goes out, and the transfer ends with every byte counted (41_event_fsm.md R145). -/
theorem run_last_byte (hsend : Sending s [b]) (hlen : s.cursor.toNat + 1 = s.length.toNat) (hgo : s.GoesOn d)
    (hin : s.inputs = scriptOf [d] ++ rest) :
    ∃ t, Host.Core.run Sys2Proof.core 2 s = .next t ∧ Returns t t.cursor rest ∧ Carried s t 1 [.byte b d] := by
  obtain ⟨acked, rfl, hrun⟩ := run_byte_advance hsend hgo hin
  have hnext := hsend.nextCursor_toNat
  have hle : ¬ s.nextCursor < s.length := by rw [BitVec.lt_def, hnext]; omega
  rw [State.advance_of_le (s := s.answered acked (scriptOf [] ++ rest)) hle] at hrun
  exact ⟨_, hrun, ⟨rfl, rfl, rfl, rfl, rfl⟩, ⟨rfl, rfl, rfl, hnext, by rw [← hsend.dat_eq]; rfl⟩⟩

/-- Under the strict policy a refused byte ends the transfer uncounted (41_event_fsm.md R146). -/
theorem run_refused_byte (hsend : Sending s (b :: bytes)) (hstrict : s.build.ignoreDataNack = false)
    (hin : s.inputs = scriptOf [.nack] ++ rest) :
    ∃ t, Host.Core.run Sys2Proof.core 2 s = .next t ∧ Returns t t.cursor rest ∧ Carried s t 0 [.byte b .nack] := by
  have hcode : byteCode s.last false = Config.dataNack := if_neg hsend.data
  have hserv := execSvcDataNackStrict_of_pending (s := s.answered false rest) rfl hsend.irqEn hcode hstrict
  have hrun := run_byte (acked := false) (ds := []) hsend.toReadyToShift hin (by rw [hcode, hstrict]; exact hserv)
  exact ⟨_, hrun, ⟨rfl, rfl, rfl, rfl, rfl⟩, ⟨rfl, rfl, rfl, rfl, by rw [← hsend.dat_eq]; rfl⟩⟩

end

/-- All the bytes before the one called `b`: each goes out, whatever the answers the transfer goes on under. -/
theorem run_data_bytes {b : Byte} {sent : List Byte} (hlen : sent.length = ds.length) {es : List Draw}
    (hsend : Sending s (sent ++ [b])) (hgo : ∀ d ∈ ds, s.GoesOn d)
    (hin : s.inputs = scriptOf (ds ++ es) ++ rest) :
    ∃ t, Host.Core.run Sys2Proof.core (2 * ds.length) s = .next t ∧ Sending t [b] ∧
      Carried s t ds.length (List.zipWith BusEvent.byte sent ds) ∧ t.inputs = scriptOf es ++ rest := by
  induction ds generalizing s sent with
  | nil =>
    obtain rfl := List.length_eq_zero_iff.mp hlen
    exact ⟨s, rfl, hsend, .refl s, hin⟩
  | cons d ds ih =>
    obtain ⟨b', sent, rfl⟩ := List.exists_cons_of_length_eq_add_one hlen
    obtain ⟨u, hrun, hsend', hcarried, hin'⟩ :=
      run_data_byte hsend (by simp) (hgo d List.mem_cons_self) hin
    have hgo' : ∀ d ∈ ds, u.GoesOn d := fun d hd => hcarried.goesOn (hgo d (List.mem_cons_of_mem _ hd))
    obtain ⟨t, hrun', hsend'', hcarried', hin''⟩ := ih (Nat.succ_inj.mp hlen) hsend' hgo' hin'
    refine ⟨t, ?_, hsend'', ?_, hin''⟩
    · rw [List.length_cons, Nat.mul_succ, Nat.add_comm, run_add hrun, hrun']
    · rw [List.length_cons, Nat.add_comm]
      exact hcarried.trans hcarried'

/-- The whole of a transfer before the byte called `b`. -/
theorem run_until_byte (hready : ReadyToStart s) {b : Byte} {sent : List Byte} (hlen : sent.length = ds.length)
    (hfits : ds.length < s.length.toNat)
    (hbuf : ∀ i, i < ds.length + 1 → s.bufferByte i = (sent ++ [b])[i]?) (hgo : ∀ d ∈ ds, s.GoesOn d)
    {es : List Draw} (hin : s.inputs = scriptOf (.ack :: .ack :: (ds ++ es)) ++ rest) :
    ∃ t, Host.Core.run Sys2Proof.core (4 + 2 * ds.length) s = .next t ∧ Sending t [b] ∧
      Carried s t ds.length (.start :: .byte s.sla .ack :: List.zipWith BusEvent.byte sent ds) ∧
      t.inputs = scriptOf es ++ rest := by
  have hcount : (sent ++ [b]).length = ds.length + 1 := by rw [List.length_append, hlen, List.length_singleton]
  obtain ⟨u, hrun, hsend, hcarried, hin'⟩ :=
    run_address_acked hready (bytes := sent ++ [b]) (by simp) (by omega) (hcount ▸ hbuf) hin
  obtain ⟨t, hrun', hsend', hcarried', hin''⟩ :=
    run_data_bytes hlen hsend (fun d hd => hcarried.goesOn (hgo d hd)) hin'
  refine ⟨t, (run_add hrun _).trans hrun', hsend', ?_, hin''⟩
  rw [← Nat.zero_add ds.length]
  exact hcarried.trans hcarried'

end

/-- Bytes host memory admits can be listed. -/
theorem State.exists_bytes_of_admitted {s : State} {n : Nat} (h : s.bufferAdmitted n) :
    ∃ bytes : List Byte, bytes.length = n ∧ ∀ i, i < n → s.bufferByte i = bytes[i]? := by
  refine ⟨(List.range n).map fun i => (s.bufferByte i).getD 0, by simp, fun i hi => ?_⟩
  obtain ⟨b, hb⟩ := Option.isSome_iff_exists.mp (h i hi)
  simp [hi, hb]

theorem exists_concat_of_length {α : Type} {l : List α} {n : Nat} (h : l.length = n + 1) :
    ∃ init a, l = init ++ [a] ∧ init.length = n := by
  rcases List.eq_nil_or_concat' l with rfl | ⟨init, a, rfl⟩
  · cases h
  · exact ⟨init, a, rfl, by simpa using h⟩

/-! ### The obligations -/

/-- Settles O56: a transfer of no bytes ends at the address; else every byte but the last is followed by the next, and
the last ends the transfer. -/
theorem acknowledgedTransferReturnsLength : Obligations.AcknowledgedTransferReturnsLength := by
  intro s data bytes rest hready hdata hbytes hbuf hgo hin
  have hzero := hready.cursor_toNat
  cases hlength : s.length.toNat with
  | zero =>
    rw [hlength] at hdata
    obtain rfl := List.length_eq_zero_iff.mp hdata
    obtain ⟨t, hrun, ⟨hbusy, hresult, hsto, hsi, hinputs⟩, hcarried⟩ := run_address_of_empty hready hlength hin
    have hlen : s.cursor = s.length := BitVec.eq_of_toNat_eq (hzero.trans hlength.symm)
    have hcursor : t.cursor = s.cursor := BitVec.eq_of_toNat_eq hcarried.cursor
    refine ⟨t, hrun, hbusy, hresult.trans hlen, hcursor.trans hlen, hsto, hsi, hinputs, hcarried.faultMark, ?_⟩
    simpa using hcarried.wire
  | succ n =>
    rw [hlength] at hdata hbytes hbuf
    obtain ⟨ds, d, rfl, hds⟩ := exists_concat_of_length hdata
    obtain ⟨sent, b, rfl, hsent⟩ := exists_concat_of_length hbytes
    obtain rfl := hds
    have hgoes : ∀ d' ∈ ds, s.GoesOn d' := fun d' hd' => hgo d' (List.mem_append_left _ hd')
    obtain ⟨u, hrun, hsend, hcarried, hin'⟩ := run_until_byte hready hsent (by omega) hbuf hgoes hin
    have hlast := hcarried.goesOn (hgo d List.mem_concat_self)
    have hcount : u.cursor.toNat + 1 = u.length.toNat := by rw [hcarried.cursor, hcarried.length]; omega
    obtain ⟨t, hrun', ⟨hbusy, hresult, hsto, hsi, hinputs⟩, hcarried'⟩ := run_last_byte hsend hcount hlast hin'
    have hall := hcarried.trans hcarried'
    have hcursor : t.cursor = s.length := BitVec.eq_of_toNat_eq (by rw [hall.cursor]; omega)
    refine ⟨t, ?_, hbusy, hresult.trans hcursor, hcursor, hsto, hsi, hinputs, hall.faultMark, ?_⟩
    · rw [show 2 * (ds.length + 1 + 2) = 4 + 2 * ds.length + 2 by omega, run_add hrun, hrun']
    · rw [hall.wire, List.zipWith_append hsent]
      simp

/-- Settles O57, by the address phase alone. -/
theorem addressNackReturnsSentinel : Obligations.AddressNackReturnsSentinel := by
  intro s rest hready hin
  obtain ⟨t, hrun, ⟨hbusy, hresult, hsto, _, hinputs⟩, hcarried⟩ := run_address_refused hready hin
  exact ⟨t, hrun, hbusy, hresult, (BitVec.eq_of_toNat_eq hcarried.cursor).trans hready.cursor, hsto, hinputs,
    hcarried.wire⟩

/-- Settles O58: the `k` bytes before it are counted, and the refused byte ends the transfer. -/
theorem strictNackReturnsIndex : Obligations.StrictNackReturnsIndex := by
  intro s k rest hready hstrict hk hadmitted hin
  obtain ⟨bytes, hbytes, hbuf⟩ := State.exists_bytes_of_admitted hadmitted
  obtain ⟨sent, b, rfl, hsent⟩ := exists_concat_of_length hbytes
  have hacks : (List.replicate k Draw.ack).length = k := List.length_replicate
  obtain ⟨u, hrun, hsend, hcarried, hin'⟩ := run_until_byte hready (hsent.trans hacks.symm) (by rwa [hacks])
    (by rwa [hacks]) (fun d hd => .inl (List.eq_of_mem_replicate hd)) hin
  obtain ⟨t, hrun', ⟨hbusy, hresult, hsto, _, hinputs⟩, hcarried'⟩ :=
    run_refused_byte hsend (hcarried.build ▸ hstrict) hin'
  have hcursor : t.cursor.toNat = k := by
    rw [hcarried'.cursor, hcarried.cursor, hacks, hready.cursor_toNat, Nat.zero_add, Nat.add_zero]
  refine ⟨t, ?_, hbusy, hresult ▸ hcursor, hcursor, hsto, hinputs⟩
  rw [hacks] at hrun
  rw [show 2 * (k + 3) = 4 + 2 * k + 2 by omega, run_add hrun, hrun']

end Sys2Proof.Machine

/-!
SUPPORT. The guards of the bus engine, what each of its steps makes under its guard, what no step of it writes, what
the invariant says of the guards, and the obligations about them (42_bus_engine.md R170 to R186).
-/
namespace Sys2Proof

/-! ### The guards -/

theorem EngineFlags.stop_iff (f : EngineFlags) :
    f.stop = true ↔ f.en = true ∧ f.si = false ∧ f.sto = true ∧ f.owned = true := by
  simp [EngineFlags.stop, and_assoc]

theorem EngineFlags.stoidle_iff (f : EngineFlags) :
    f.stoidle = true ↔ f.en = true ∧ f.si = false ∧ f.sto = true ∧ f.owned = false := by
  simp [EngineFlags.stoidle, and_assoc]

theorem EngineFlags.startOk_iff (f : EngineFlags) :
    f.startOk = true ↔ f.en = true ∧ f.si = false ∧ f.sto = false ∧ f.sta = true ∧ f.owned = false := by
  simp [EngineFlags.startOk, and_assoc]

theorem EngineFlags.rstart_iff (f : EngineFlags) :
    f.rstart = true ↔ f.en = true ∧ f.si = false ∧ f.sto = false ∧ f.sta = true ∧ f.owned = true := by
  simp [EngineFlags.rstart, and_assoc]

theorem EngineFlags.byteOk_iff (f : EngineFlags) :
    f.byteOk = true ↔ f.en = true ∧ f.si = false ∧ f.sto = false ∧ f.sta = false ∧ f.owned = true ∧
      f.last ≠ .noPhase := by
  simp [EngineFlags.byteOk, and_assoc]

/-- Some guard holds: the engine is free to move, and a stop, a start or a byte is asked of it. -/
theorem EngineFlags.some_guard_iff (f : EngineFlags) :
    f.stop = true ∨ f.stoidle = true ∨ f.startOk = true ∨ f.rstart = true ∨ f.byteOk = true ↔
      f.en = true ∧ f.si = false ∧ (f.sto = true ∨ f.sta = true ∨ (f.owned = true ∧ f.last ≠ .noPhase)) := by
  rw [f.stop_iff, f.stoidle_iff, f.startOk_iff, f.rstart_iff, f.byteOk_iff]
  cases f.sto
  · cases f.sta
    · simp
    · cases f.owned <;> simp
  · cases f.owned <;> simp

end Sys2Proof

namespace Sys2Proof.Machine

/-! ### The engine's choice by its guards -/

section
variable {f : EngineFlags}

theorem engineSelect_of_stop (h : f.stop = true) (d : Draw) : engineSelect f d = some .eStop := if_pos h

theorem engineSelect_of_stoidle (h : f.stoidle = true) (d : Draw) : engineSelect f d = some .eStoidle := by
  obtain ⟨_, _, _, howned⟩ := f.stoidle_iff.mp h
  simp [engineSelect, EngineFlags.stop, howned, h]

theorem engineSelect_of_rstart (h : f.rstart = true) (d : Draw) : engineSelect f d = some .eRstart := by
  obtain ⟨_, _, hsto, _, howned⟩ := f.rstart_iff.mp h
  simp [engineSelect, EngineFlags.stop, EngineFlags.stoidle, EngineFlags.startOk, hsto, howned, h]

/-- The step chosen is the step whose guard holds, since no two guards hold together (42_bus_engine.md R172). -/
theorem engineSelect_eq_some_iff {d : Draw} {i : Instr} :
    engineSelect f d = some i ↔
      (f.stop = true ∧ i = .eStop) ∨ (f.stoidle = true ∧ i = .eStoidle) ∨
      (f.startOk = true ∧ i = .eStart d.replacing) ∨ (f.rstart = true ∧ i = .eRstart) ∨
      (f.byteOk = true ∧ i = .eByte d) := by
  constructor
  · intro h
    unfold engineSelect at h
    split_ifs at h <;> cases h <;> simp [*]
  · rintro (⟨h, rfl⟩ | ⟨h, rfl⟩ | ⟨h, rfl⟩ | ⟨h, rfl⟩ | ⟨h, rfl⟩)
    · exact engineSelect_of_stop h d
    · exact engineSelect_of_stoidle h d
    · exact engineSelect_of_startOk h d
    · exact engineSelect_of_rstart h d
    · exact engineSelect_of_byteOk h d

theorem engineSelect_eq_none_iff {d : Draw} :
    engineSelect f d = none ↔
      ¬ (f.stop = true ∨ f.stoidle = true ∨ f.startOk = true ∨ f.rstart = true ∨ f.byteOk = true) := by
  unfold engineSelect
  split_ifs <;> simp [*]

end

/-! ### What each step makes under its guard -/

theorem State.takeWhen_of_not_guard {s t : State} {g : Bool} (h : g = false) : s.takeWhen g t = .next s := by
  rw [h, State.takeWhen_false]

section
variable {s : State}

/-- The bus released by a stop (42_bus_engine.md R173). -/
def State.stopped (s : State) (inputs : List Input) : State :=
  { s with sto := false, owned := false, last := .noPhase, stat := Config.noEvent, wire := .stop :: s.wire,
           inputs := inputs }

theorem execEStop_of_stop (hguard : s.engineFlags.stop = true) : execEStop s = .next (s.stopped s.inputs) :=
  State.takeWhen_of_guard hguard

theorem execEStoidle_of_stoidle (hguard : s.engineFlags.stoidle = true) :
    execEStoidle s = .next { s with sto := false } :=
  State.takeWhen_of_guard hguard

theorem execERstart_of_rstart (hguard : s.engineFlags.rstart = true) :
    execERstart s = .next { s with last := .start, stat := Config.rstartSent, si := true,
                                   wire := .rstart :: s.wire } :=
  State.takeWhen_of_guard hguard

theorem execEStart_of_startOk (hguard : s.engineFlags.startOk = true) :
    execEStart none s = .next { s with owned := true, last := .start, stat := Config.startSent, si := true,
                                       wire := .start :: s.wire } :=
  State.takeWhen_of_guard hguard

theorem execEByte_of_byteOk (hguard : s.engineFlags.byteOk = true) (acked : Bool) :
    execEByte (answer acked) s = .next (s.answered acked s.inputs) := by
  cases acked <;> exact State.takeWhen_of_guard (by rw [hguard]; rfl)

theorem execEByte_arb_of_byteOk (hguard : s.engineFlags.byteOk = true) (henv : s.build.arbEnv = true) :
    execEByte .arb s = .next { s with stat := Config.arbLost, owned := false, last := .noPhase, si := true,
                                      wire := .byte s.dat .arb :: s.wire } :=
  State.takeWhen_of_guard (by rw [hguard, State.admitsDraw, henv]; rfl)

/-- A byte after a start is the address byte (42_bus_engine.md R182). -/
theorem State.answered_of_start (hlast : s.last = .start) (acked : Bool) (inputs : List Input) :
    s.answered acked inputs =
      { s with stat := if acked then Config.addrAck else Config.addrNack, last := .addr, si := true,
               wire := .byte s.dat (answer acked) :: s.wire, inputs := inputs } := by
  rw [State.answered, hlast]
  rfl

/-- Every later byte is a data byte (42_bus_engine.md R182). -/
theorem State.answered_of_not_start (hlast : s.last ≠ .start) (acked : Bool) (inputs : List Input) :
    s.answered acked inputs =
      { s with stat := if acked then Config.dataAck else Config.dataNack, last := .data, si := true,
               wire := .byte s.dat (answer acked) :: s.wire, inputs := inputs } := by
  rw [State.answered, byteCode, bytePhase, if_neg hlast, if_neg hlast]

/-- The environment may replace an event by an unrecognised code, with `OTHER_ENV` (42_bus_engine.md R180). -/
theorem State.admitsDraw_other {c : Byte} (henv : s.build.otherEnv = true) (hc : Config.recognised c = false) :
    s.admitsDraw (.other c) = true := by
  rw [State.admitsDraw, henv, hc]
  rfl

theorem State.admitsDraw_other_of_absent (henv : s.build.otherEnv = false) (c : Byte) :
    s.admitsDraw (.other c) = false := by
  rw [State.admitsDraw, henv]
  rfl

theorem execEStart_other_of_startOk {c : Byte} (hguard : s.engineFlags.startOk = true)
    (hdraw : s.admitsDraw (.other c) = true) :
    execEStart (some c) s = .next { s with stat := c, si := true, wire := .other c :: s.wire } :=
  State.takeWhen_of_guard (by rw [hguard, hdraw]; rfl)

theorem execEByte_other_of_byteOk {c : Byte} (hguard : s.engineFlags.byteOk = true)
    (hdraw : s.admitsDraw (.other c) = true) :
    execEByte (.other c) s = .next { s with stat := c, si := true, wire := .other c :: s.wire } :=
  State.takeWhen_of_guard (by rw [hguard, hdraw]; rfl)

theorem execEStart_other_of_not_admitted {c : Byte} (hdraw : s.admitsDraw (.other c) = false) :
    execEStart (some c) s = .next s :=
  State.takeWhen_of_not_guard (by rw [hdraw, Bool.and_false])

theorem execEByte_of_not_admitted {d : Draw} (hdraw : s.admitsDraw d = false) : execEByte d s = .next s :=
  State.takeWhen_of_not_guard (by rw [hdraw, Bool.and_false])

/-- The engine's turn runs the step it chooses. -/
theorem step_of_engineSelect {d : Draw} {rest : List Input} {i : Instr} (hin : s.inputs = .engine d :: rest)
    (hsel : engineSelect s.engineFlags d = some i) : step s = exec i { s with inputs := rest } :=
  step_of_run hin nofun (by rw [State.action, hsel, actionOf])

end

/-! ### What no step of the engine writes -/

/-- The instruction is a step of the bus engine (42_bus_engine.md R173 to R177). -/
def IsEngineStep : Instr → Bool
  | .eStop | .eStoidle | .eStart _ | .eByte _ | .eRstart => true
  | _ => false

/-- The engine's steps are no handlers and no commands. -/
theorem kind_of_isEngineStep {i : Instr} (h : IsEngineStep i = true) : IsHandler i = false ∧ IsCommand i = false := by
  cases i with
  | eStop | eStoidle | eStart | eByte | eRstart => exact ⟨rfl, rfl⟩
  | _ => cases h

/-- An engine step does nothing, or the engine is free to move and writes six registers at most, STO never being set
(42_bus_engine.md R170, R171, R181). -/
theorem Effect.engine_skips_or_moves {s t : State} {i : Instr} (h : Effect s i t) (hi : IsEngineStep i = true) :
    t = s ∨ (s.en = true ∧ s.si = false ∧ ∃ stat sto si owned last wire,
      t = { s with stat := stat, sto := sto, si := si, owned := owned, last := last, wire := wire } ∧
      (sto = true → s.sto = true)) := by
  obtain ⟨hhandler, hcommand⟩ := kind_of_isEngineStep hi
  cases h with
  | skip => exact .inl rfl
  | stop hen hsi | stoidle hen hsi => exact .inr ⟨hen, hsi, _, false, _, _, _, _, rfl, nofun⟩
  | start hen hsi | startOther _ hen hsi | byte _ _ _ hen hsi | byteArb hen hsi | byteOther _ hen hsi
  | rstart hen hsi => exact .inr ⟨hen, hsi, _, s.sto, _, _, _, _, rfl, id⟩
  | dataEmit _ _ hadv | dataEnd _ hadv => exact nomatch hhandler.symm.trans hadv.isHandler
  | initDone _ hruns | xferDone _ hruns => exact nomatch hcommand.symm.trans (hruns.isCommand rfl)
  | refused _ hcmd | fault _ _ hcmd => exact nomatch hcommand.symm.trans hcmd
  | _ => cases hi

theorem exec_engineStep_of_held {s : State} {i : Instr} (hi : IsEngineStep i = true)
    (hheld : s.si = true ∨ s.en = false) : exec i s = .next s := by
  obtain ⟨t, hexec⟩ := exec_completes i s
  rcases (effect_of_exec hexec).engine_skips_or_moves hi with rfl | ⟨hen, hsi, _⟩
  · exact hexec
  · simp [hen, hsi] at hheld

/-! ### What the invariant says of the guards -/

theorem State.Reachable.inv {s : State} (h : s.Reachable) : Inv s := by
  obtain ⟨build, mem, contexts, inputs, k, _, hrun⟩ := h
  exact run_induction (P := Inv) (fun _ _ => step_inv_kept) (inv_launch build mem contexts inputs) hrun

section
variable {s : State} (hinv : Inv s)
include hinv

/-- A start request on an owned bus waits for a stop, or its event is pending (42_bus_engine.md R186 (c)). -/
theorem Inv.not_rstart : s.engineFlags.rstart ≠ true := by
  intro hguard
  obtain ⟨_, hsi, hsto, hsta, howned⟩ := s.engineFlags.rstart_iff.mp hguard
  obtain ⟨_, _, hstart⟩ := hinv.start_pending hsta
  rcases hstart howned with hstop | ⟨hpending, _⟩
  · exact nomatch hsto.symm.trans hstop
  · exact nomatch hsi.symm.trans hpending

/-- A stop is asked for on an owned bus only (42_bus_engine.md R186 (d)). -/
theorem Inv.not_stoidle : s.engineFlags.stoidle ≠ true := by
  intro hguard
  obtain ⟨_, _, hsto, hfree⟩ := s.engineFlags.stoidle_iff.mp hguard
  obtain ⟨howned, _⟩ := hinv.stop_pending hsto
  exact nomatch hfree.symm.trans howned

theorem Inv.busy_of_byteOk (hguard : s.engineFlags.byteOk = true) : s.busy = true := by
  obtain ⟨_, _, hsto, _, howned, _⟩ := s.engineFlags.byteOk_iff.mp hguard
  exact hinv.busy_of_owned howned hsto

end

/-! ### The obligations -/

/-- Settles O32: the step chosen is the one whose guard holds, and the five guards together cover every reason to
move. -/
theorem engineGuards : Obligations.EngineGuards := by
  intro f d
  refine ⟨?stop, ?stoidle, ?start, ?rstart, ?byte, ?none⟩
  case stop => rw [← f.stop_iff, engineSelect_eq_some_iff]; simp
  case stoidle => rw [← f.stoidle_iff, engineSelect_eq_some_iff]; simp
  case start => simp only [← f.startOk_iff, engineSelect_eq_some_iff]; simp
  case rstart => rw [← f.rstart_iff, engineSelect_eq_some_iff]; simp
  case byte => rw [← f.byteOk_iff, engineSelect_eq_some_iff]; simp
  case none => rw [engineSelect_eq_none_iff, f.some_guard_iff]

/-- Settles O33: every guard asks for EN = 1 and SI = 0. -/
theorem engineHeld : Obligations.EngineHeld := by
  intro s hheld
  refine ⟨exec_engineStep_of_held rfl hheld, exec_engineStep_of_held rfl hheld, exec_engineStep_of_held rfl hheld,
    fun _ => exec_engineStep_of_held rfl hheld, fun _ => exec_engineStep_of_held rfl hheld, fun d => ?_⟩
  rw [engineSelect_eq_none_iff, s.engineFlags.some_guard_iff]
  rintro ⟨hen, hsi, _⟩
  rcases hheld with h | h
  · exact nomatch hsi.symm.trans h
  · exact nomatch h.symm.trans hen

/-- Settles O40, by the frame of the engine's effects. -/
theorem engineFrame : Obligations.EngineFrame := by
  intro i s t hexec hmem
  have hi : IsEngineStep i = true := by
    rcases hmem with rfl | rfl | rfl | ⟨o, rfl⟩ | ⟨d, rfl⟩ <;> rfl
  rcases (effect_of_exec hexec).engine_skips_or_moves hi with rfl | ⟨_, _, _, _, _, _, _, _, rfl, hsto⟩
  · simp
  · exact ⟨rfl, rfl, rfl, rfl, rfl, rfl, rfl, rfl, rfl, rfl, rfl, rfl, rfl, rfl, rfl, rfl, rfl, rfl, rfl, rfl, rfl, rfl,
      rfl, hsto⟩

/-- Settles O49: a reachable state has the invariant, and the step chosen has its guard. -/
theorem engineInvariantsOfReachableStates : Obligations.EngineInvariantsOfReachableStates := by
  intro s hreach
  have hinv := hreach.inv
  refine ⟨hinv.owned_iff, fun howned hidle => .inl (hinv.idle_owned hidle howned), ?rstart, ?stoidle, ?byte⟩
  case rstart =>
    intro d hsel
    exact hinv.not_rstart (by simpa using engineSelect_eq_some_iff.mp hsel)
  case stoidle =>
    intro d hsel
    exact hinv.not_stoidle (by simpa using engineSelect_eq_some_iff.mp hsel)
  case byte =>
    intro d hsel
    exact hinv.busy_of_byteOk (by simpa using engineSelect_eq_some_iff.mp hsel)

/-- Settles O34: the hypotheses are the guard. -/
theorem stopEffect : Obligations.StopEffect := fun s hen hsi hsto howned =>
  execEStop_of_stop (s.engineFlags.stop_iff.mpr ⟨hen, hsi, hsto, howned⟩)

/-- Settles O35: the hypotheses are the guard. -/
theorem startEffect : Obligations.StartEffect := fun s hen hsi hsto hsta howned =>
  execEStart_of_startOk (s.engineFlags.startOk_iff.mpr ⟨hen, hsi, hsto, hsta, howned⟩)

/-- Settles O36: LAST tells the address byte from a data byte. -/
theorem byteEffect : Obligations.ByteEffect := by
  intro s hen hsi hsto hsta howned
  have hguard (hlast : s.last ≠ .noPhase) : s.engineFlags.byteOk = true :=
    s.engineFlags.byteOk_iff.mpr ⟨hen, hsi, hsto, hsta, howned, hlast⟩
  refine ⟨fun hlast => ?address, fun hlast => ?data, fun hlast henv => execEByte_arb_of_byteOk (hguard hlast) henv⟩
  case address =>
    have hexec := execEByte_of_byteOk (hguard (by simp [hlast]))
    simp only [State.answered_of_start hlast] at hexec
    exact ⟨hexec true, hexec false⟩
  case data =>
    have hne : s.last ≠ .noPhase ∧ s.last ≠ .start := by rcases hlast with h | h <;> simp [h]
    have hexec := execEByte_of_byteOk (hguard hne.1)
    simp only [State.answered_of_not_start hne.2] at hexec
    exact ⟨hexec true, hexec false⟩

/-- Settles O37: the code is one the build admits, or with OTHER_ENV false one it does not. -/
theorem otherCodeReplacesEvent : Obligations.OtherCodeReplacesEvent := by
  intro s c hen hsi hsto h1 h2 h3 h4 h5 h6
  have hc := (Config.recognised_eq_false_iff c).mpr ⟨h1, h2, h3, h4, h5, h6⟩
  refine ⟨?start, ?byte, ?absent⟩
  case start =>
    intro henv hsta howned
    exact execEStart_other_of_startOk (s.engineFlags.startOk_iff.mpr ⟨hen, hsi, hsto, hsta, howned⟩)
      (State.admitsDraw_other henv hc)
  case byte =>
    intro henv hsta howned hlast
    exact execEByte_other_of_byteOk (s.engineFlags.byteOk_iff.mpr ⟨hen, hsi, hsto, hsta, howned, hlast⟩)
      (State.admitsDraw_other henv hc)
  case absent =>
    intro henv
    have hdraw := State.admitsDraw_other_of_absent henv c
    exact ⟨execEStart_other_of_not_admitted hdraw, execEByte_of_not_admitted hdraw⟩

/-- Settles O39: the hypotheses are the two guards. -/
theorem idleStopAndRepeatedStartEffect : Obligations.IdleStopAndRepeatedStartEffect := fun s hen hsi =>
  ⟨fun hsto hfree => execEStoidle_of_stoidle (s.engineFlags.stoidle_iff.mpr ⟨hen, hsi, hsto, hfree⟩),
    fun hsto hsta howned =>
      execERstart_of_rstart (s.engineFlags.rstart_iff.mpr ⟨hen, hsi, hsto, hsta, howned⟩)⟩

/-- Settles O59: the stop frees the bus, which leaves the start's guard. -/
theorem pendingStopComesBeforeStart : Obligations.PendingStopComesBeforeStart := by
  intro s d rest hen hsi hsto hsta howned hin
  have hstop := s.engineFlags.stop_iff.mpr ⟨hen, hsi, hsto, howned⟩
  have hstep : step s = .next (s.stopped (.engine .ack :: rest)) :=
    (step_of_engineSelect hin (engineSelect_of_stop hstop d)).trans (execEStop_of_stop hstop)
  have hstart := (s.stopped (.engine .ack :: rest)).engineFlags.startOk_iff.mpr ⟨hen, hsi, rfl, hsta, rfl⟩
  have hstep' := (step_of_engineSelect rfl (engineSelect_of_startOk hstart .ack)).trans
    (execEStart_of_startOk (s := s.stopped rest) hstart)
  rw [run_succ_of_step hstep, run_succ_of_step hstep']
  rfl

end Sys2Proof.Machine

/-!
SUPPORT. Which instruction raises a fault and what is left of the state, and the obligation about it
(60_exceptions.md R205).
-/
namespace Sys2Proof.Machine

/-- The fault mark has one kind of writer, a command that faults while BUSY = 0 (60_exceptions.md R205). -/
theorem Effect.raiseFault_of_faultMark_ne {s t : State} {i : Instr} (h : Effect s i t)
    (hmark : t.faultMark ≠ s.faultMark) :
    IsCommand i = true ∧ s.busy = false ∧ ∃ r, t = s.raiseFault r := by
  cases h with
  | fault _ r hcommand hidle => exact ⟨hcommand, hidle, r, rfl⟩
  | _ => exact absurd rfl hmark

/-- Settles O45: the fault writes the mark alone. -/
theorem faultingStepChangesNoRegister : Obligations.FaultingStepChangesNoRegister := by
  intro i s t hexec hmark
  obtain ⟨_, hidle, r, rfl⟩ := (effect_of_exec hexec).raiseFault_of_faultMark_ne hmark
  exact ⟨hidle, rfl⟩

end Sys2Proof.Machine

/-!
SUPPORT. The model's own choices at the edges of the handlers and the engine: the cursor past its greatest value, and
the answers a build rules out (notes/assumptions/10.md, notes/assumptions/4.md).
-/
namespace Sys2Proof.Machine

/-- At its greatest value the advanced cursor is the free value (notes/assumptions/10.md). -/
theorem State.nextCursor_of_top {s : State} (htop : s.cursor = 0xFFFFFFFF) :
    s.nextCursor = Config.cursorPastTop s.length :=
  if_pos htop

theorem State.admitsDraw_arb_of_absent {s : State} (henv : s.build.arbEnv = false) : s.admitsDraw .arb = false :=
  henv

/-- Settles O26: both handlers advance, and the advanced cursor is the free value; the cases are the end of the
buffer, an admitted byte and an unadmitted one. -/
theorem advancePastTopUsesFreeValue : Obligations.AdvancePastTopUsesFreeValue := by
  intro s i c hsi hirq htop hc hevent
  have hexec : exec i s = .next s.advance := by
    rcases hevent with ⟨rfl, hstat⟩ | ⟨rfl, hstat, hignore⟩
    · exact execSvcDataAck_of_pending hsi hirq hstat
    · exact execSvcDataNackIgnore_of_pending hsi hirq hstat hignore
  obtain rfl : s.nextCursor = c := (State.nextCursor_of_top htop).trans hc.symm
  rw [hexec]
  split
  case isTrue hle => rw [State.advance_of_le (Nat.not_lt.mpr hle)]
  case isFalse hnle =>
    have hlt : s.nextCursor < s.length := Nat.not_le.mp hnle
    split
    · next b hb => rw [State.advance_of_lt hlt hb]
    · next hnone => rw [State.advance_of_unadmitted hlt hnone]

/-- Settles O38: an answer the build does not admit fails the guard. -/
theorem absentDrawsGiveNoStep : Obligations.AbsentDrawsGiveNoStep := by
  intro s
  refine ⟨fun henv => execEByte_of_not_admitted (State.admitsDraw_arb_of_absent henv), fun henv c => ?_⟩
  have hdraw := State.admitsDraw_other_of_absent henv c
  exact ⟨execEByte_of_not_admitted hdraw, execEStart_other_of_not_admitted hdraw⟩

end Sys2Proof.Machine
